-- ==== Sys2Proof/Word.lean ====
section
/-! DEFINITION. The widths of the block's data (spec/00_scope.md section 5, rules R4 and R5; spec/10_state.md). -/

namespace Sys2Proof

/-- A register-port word and a command word: `XLEN` = 32 bits (rule R5). -/
abbrev Word := BitVec 32

/-- An extent (`DIM_BITS`) and a threshold immediate (`THR_BITS`): 16 bits (rule R5). -/
abbrev Half := BitVec 16

/-- An IMG or OUT cell: 8 bits (rules R24 and R26). -/
abbrev Byte := BitVec 8

/-- A BIN cell and a matrix element: one bit (rules R25 and R81). -/
abbrev Bit := BitVec 1

end Sys2Proof
end

