-- ==== Sys2Proof/Syntax.lean ====
section
/-! DEFINITION. The instruction set: one constructor per row of spec/opcode_table.json (spec/30_encoding.md rules R63,
R67). -/

namespace Sys2Proof

/-- A conversion command. Its operand is the optional threshold `#t` of rule R67: `none` is TV = 0, "threshold
unspecified"; `some t` is TV = 1 with the decimal integer `t`. -/
inductive Instr where
  /-- `CONV.RM [#t]`, MODE 0, RowMajor (rule R121). -/
  | convRm (thr : Option Int)
  /-- `CONV.CM [#t]`, MODE 1, ColumnMajor (rule R122). -/
  | convCm (thr : Option Int)
  /-- `CONV.RS [#t]`, MODE 2, RowSerpentine (rule R123). -/
  | convRs (thr : Option Int)
  /-- `CONV.CS [#t]`, MODE 3, ColumnSerpentine (rule R124). -/
  | convCs (thr : Option Int)
deriving DecidableEq, Repr

/-- The operand of a command. -/
def Instr.threshold : Instr → Option Int
  | .convRm t => t
  | .convCm t => t
  | .convRs t => t
  | .convCs t => t

/-- The command's name as spec/opcode_table.json spells it. -/
def Instr.mnemonic : Instr → String
  | .convRm _ => "CONV.RM"
  | .convCm _ => "CONV.CM"
  | .convRs _ => "CONV.RS"
  | .convCs _ => "CONV.CS"

end Sys2Proof
end

