-- ==== Sys2Proof/WellFormed.lean ====
section
/-! DEFINITION. Which terms of `Instr` the encoding can write down (spec/30_encoding.md rules R61, R67). -/

namespace Sys2Proof

/-- Rules R61, R67: a threshold immediate is an integer from -32768 to 32767; no operand is always well formed. -/
def thresholdFits : Option Int → Bool
  | none => true
  | some t => decide (-32768 ≤ t) && decide (t ≤ 32767)

/-- A well-formed instruction: its one operand fits its field. -/
def Instr.wf (i : Instr) : Bool := thresholdFits i.threshold

end Sys2Proof
end

