-- ==== Sys2Proof/Decode.lean ====
section
/-! DEFINITION. The command word: decoding, total on all words (spec/30_encoding.md rules R60 to R66, R73), and after
it the encoder. -/

namespace Sys2Proof

/-- What a command word stands for (rule R60: "Decoding is total"; rule R73). -/
inductive Decoded where
  /-- One of the four instructions. -/
  | instr (i : Instr)
  /-- `ILLEGAL(mode)`: MODE is 4 or more (rule R64). -/
  | illegal (mode : BitVec 15)
deriving DecidableEq, Repr

/-- THR, bits [31:16] (rule R60). -/
def thrField (c : Word) : Half := c.extractLsb' 16 16

/-- TV, bit [15] (rule R60). -/
def tvField (c : Word) : Bool := c.getLsbD 15

/-- MODE, bits [14:0] (rule R60). -/
def modeField (c : Word) : BitVec 15 := c.extractLsb' 0 15

/-- The threshold operand: `sext_16(C[31:16])` if TV = 1 (rule R61), unspecified if TV = 0, whatever THR holds
(rule R62). -/
def thresholdOperand (c : Word) : Option Int := if tvField c then some (thrField c).toInt else none

/-- Rules R63, R64 and R73. -/
def decode (c : Word) : Decoded :=
  if modeField c = 0 then .instr (.convRm (thresholdOperand c))
  else if modeField c = 1 then .instr (.convCm (thresholdOperand c))
  else if modeField c = 2 then .instr (.convRs (thresholdOperand c))
  else if modeField c = 3 then .instr (.convCs (thresholdOperand c))
  else .illegal (modeField c)

/-- The MODE number of a command (rule R63). -/
def Instr.modeNumber : Instr → Nat
  | .convRm _ => 0
  | .convCm _ => 1
  | .convRs _ => 2
  | .convCs _ => 3

/-- `encode(m, none)` and `encode(m, some t)` of rule R73. -/
def encodeMode (m : Nat) : Option Int → Word
  | none => BitVec.ofNat 32 m
  | some t => (BitVec.ofNat 32 (t % 65536).toNat <<< 16) ||| 0x8000#32 ||| BitVec.ofNat 32 m

/-- The command word of an instruction (rule R73). It writes THR = 0 where TV = 0; rule R62 names the other words of
the same command. -/
def encode (i : Instr) : Word := encodeMode i.modeNumber i.threshold

/-- How a decoded word is written (rule R67): the mnemonic with the operand, absent where TV = 0, or `ILLEGAL m`. -/
def Decoded.text : Decoded → String
  | .instr i =>
    match i.threshold with
    | none => i.mnemonic
    | some t => i.mnemonic ++ " #" ++ toString t
  | .illegal m => "ILLEGAL " ++ toString m.toNat

/-- The instruction this decoder reads from a table row's bits: every command is one 32-bit word (rule R66), so bits
the host numbers above `nbits` are 0 and a value of more than 32 bits is no command word. -/
def decodeTableWord (nbits w : Nat) : Option Instr :=
  if w % 2 ^ nbits < 2 ^ 32 then
    match decode (BitVec.ofNat 32 (w % 2 ^ nbits)) with
    | .instr i => some i
    | .illegal _ => none
  else none

end Sys2Proof
end

