-- ==== Sys2Proof/Config.lean ====
section
/-! DEFINITION. The parameters the spec fixes (rule R4), the one it leaves open (rule R5), and the free values: constants
with no body for what the spec does not fix (spec/93_implementation_defined.md section 2). -/

namespace Sys2Proof

/-- The parameters of one machine. It is held in State (assumption log 1): a statement about every state is then a
statement about every capacity. -/
structure Config where
  /-- `IMG_CAP`: the number of cells in each of IMG, BIN and OUT (rule R5, decision D8). -/
  imgCap : Nat
deriving DecidableEq, Repr

/-- Rule R5: 1 ≤ `IMG_CAP` ≤ 4294836225 (= 65535 × 65535). -/
abbrev Config.wf (c : Config) : Prop := 1 ≤ c.imgCap ∧ c.imgCap ≤ 4294836225

/-- DESIGN CHOICE (log 1): the capacity rule R5 suggests. -/
def Config.suggested : Config := { imgCap := 65536 }

/-- `DEFAULT_THRESHOLD` (rule R4): "threshold defaults to 127 when unspecified". -/
def Config.defaultThreshold : Int := 127

/-- `STRIP` (rule R4): rows per strip, bits per output byte. -/
def Config.stripRows : Nat := 8

/-- Free value (log 2): what an IMG cell holds that the host has not written since reset number `resets`
(rules R30 and R165, U1). Arguments: the number of resets, the cell's address. -/
opaque Config.resetSample : Nat → Nat → Byte

/-- Free value (log 2): what a BIN cell holds that no conversion has written since reset (U1). -/
opaque Config.resetBinBit : Nat → Nat → Bit

/-- Free value (log 2): what an OUT cell holds that no conversion has written since reset (U1). -/
opaque Config.resetOutByte : Nat → Nat → Byte

/-- Free value (log 5): what draw number `n` returns for an `OutRead` made during BUSY (rule R170, U2). -/
opaque Config.busyOutByte : Nat → Byte

/-- Free value (log 5): what draw number `n` returns for a `BinRead` made during BUSY (rule R170, U2). -/
opaque Config.busyBinBit : Nat → Bit

/-- Free value (log 6): which of the values rule R169 admits the conversion with draw number `n` reads from the cell
at an address (U3). -/
opaque Config.raceChoice : Nat → Nat → Nat

end Sys2Proof
end

