-- ==== Sys2Proof/Machine/State.lean ====
section
/-! DEFINITION. The state of the block as spec/10_state.md lists it (rule R10), the state of the model's own that the two
agents need, and the state after reset (rule R30). -/

namespace Sys2Proof.Machine

/-- The four scan modes (spec/41_scan_order.md; `req_mode` of rule R23 holds one of them in 2 bits). -/
inductive ScanMode where
  | rowMajor
  | columnMajor
  | rowSerpentine
  | columnSerpentine
deriving DecidableEq, Repr

/-- The taxonomy of rule R140. -/
inductive CommandError where
  | invalidImage
  | unsupportedMode
  /-- The name exists and the block never raises it (rule R144). -/
  | invalidThreshold
deriving DecidableEq, Repr

/-- The phase, a reading of STATUS (rule R12). -/
inductive Phase where
  | idle
  | busy
  | done
  | err
deriving DecidableEq, Repr

/-- The nine registers of the register port (rule R10, spec/10_state.md section 2). -/
inductive Reg where
  | cmd
  | status
  | width
  | height
  | outLen
  | pkRows
  | pkCols
  | resWidth
  | resHeight
deriving DecidableEq, Repr

/-- STATUS by its fields (rule R14). Bits [31:8] do not exist and read as 0: `Status.word` (Machine/Flags.lean) is the
register's value. -/
structure Status where
  busy : Bool
  done : Bool
  err : Bool
  ovr : Bool
  errCode : BitVec 4
deriving DecidableEq, Repr

/-- A memory of cells of `w` bits: the cells written since reset, as pairs of address and content with strictly rising
addresses (`Memory.wf`, Machine/Ops.lean). An unlisted address has no value (log 2). `Memory 8` is a list of
`Host.Cell`. -/
abbrev Memory (w : Nat) := List (Nat × BitVec w)

/-- One line of a host program (rule R69): a transaction of rules R128 to R133, or the pseudo-instruction `WAIT`. An
offset or address is any number; those outside the block's map are refused when the transaction is made. -/
inductive HostOp where
  /-- `RegRead(off)` (rule R128). -/
  | regRead (off : Nat)
  /-- `RegWrite(off, v)` (rules R120 and R129). -/
  | regWrite (off : Nat) (v : Word)
  /-- `ImgWrite(a, v)` (rule R130). -/
  | imgWrite (a : Nat) (v : Byte)
  /-- `ImgRead(a)` (rule R131). -/
  | imgRead (a : Nat)
  /-- `OutRead(i)` (rule R132). -/
  | outRead (i : Nat)
  /-- `BinRead(a)` (rule R133). -/
  | binRead (a : Nat)
  /-- `WAIT`: read STATUS until the value read has BUSY = 0 (rule R69). -/
  | wait
deriving DecidableEq, Repr

/-- Who takes a step: the host, the codec (rule R7), or the reset input (rule R165). -/
inductive Turn where
  | host
  | codec
  | reset
deriving DecidableEq, Repr

/-- What a host read returned: a register word, an IMG or OUT cell, or a BIN bit. -/
inductive Reply where
  | reg (v : Word)
  | cell (v : Byte)
  | bit (v : Bit)
deriving DecidableEq, Repr

/-- Everything the spec gives one instance of the block (rule R10), and the model's own fields at the end. -/
structure State where
  /-- The parameter `IMG_CAP` (rule R5, log 1): no step changes it. -/
  cfg : Config
  /-- STATUS (rule R14). -/
  status : Status
  /-- WIDTH (rule R16). -/
  width : Half
  /-- HEIGHT (rule R17). -/
  height : Half
  /-- OUT_LEN (rule R18). -/
  outLen : Word
  /-- PK_ROWS (rule R19). -/
  pkRows : Half
  /-- PK_COLS (rule R20). -/
  pkCols : Half
  /-- RES_WIDTH (rule R21). -/
  resWidth : Half
  /-- RES_HEIGHT (rule R22). -/
  resHeight : Half
  /-- The request latches `req_w`, `req_h`, `req_mode`, `req_thr` (rule R23). -/
  reqW : Half
  reqH : Half
  reqMode : ScanMode
  reqThr : Half
  /-- IMG (rule R24). -/
  img : Memory 8
  /-- BIN (rule R25). -/
  bin : Memory 1
  /-- OUT (rule R26). -/
  out : Memory 8
  /-- The model's own (log 6): the image cells written during the running conversion, each with the content the write
  replaced (`none`: never written since reset), newest first (rule R169). -/
  raced : List (Nat × Option Byte)
  /-- The model's own (log 8): the host's transactions still to come (rule R7). -/
  program : List HostOp
  /-- The model's own (log 7): who moves, one entry a step. -/
  schedule : List Turn
  /-- The model's own (log 11): what the host's reads returned, newest first. -/
  replies : List Reply
  /-- The model's own (log 5): the counter the free values are drawn by. -/
  draws : Nat
  /-- The model's own (log 10): how many resets there were, which numbers the unspecified memory contents. -/
  resets : Nat
deriving DecidableEq, Repr

/-- Reasons for the block to stop. There is none (log 13): its errors are reported in STATUS and it goes on (rules
R140, R147), and it has "no memory faults, no alignment faults and no arithmetic faults". -/
inductive Fault : Type where
deriving DecidableEq, Repr

/-- Transactions and commands without a meaning. -/
inductive Refusal where
  /-- Raised by an arm of `exec` whose instruction has no meaning yet: none. Safe. -/
  | notModelled (mnemonic : String)
  /-- Raised by `RegRead` and `RegWrite` at an offset that is none of the nine (rule R29, U6, log 12). Safe. -/
  | noRegister (off : Nat)
  /-- Raised by `ImgWrite`, `ImgRead`, `OutRead` and `BinRead` at an address not below `IMG_CAP` (rule R47, U6,
  log 12). Safe. -/
  | noCell (a : Nat)
deriving DecidableEq, Repr

/-- STATUS = 0x00000000 (rule R30): phase IDLE, ERRCODE 0. -/
def Status.zero : Status := { busy := false, done := false, err := false, ovr := false, errCode := 0 }

/-- The state right after power-up (rules R30, R165). The latches hold named values (log 4); no cell is listed, so that
every cell is unspecified (log 2); the host has nothing to do (log 8). -/
def State.reset : State where
  cfg := Config.suggested
  status := Status.zero
  width := 0
  height := 0
  outLen := 0
  pkRows := 0
  pkCols := 0
  resWidth := 0
  resHeight := 0
  reqW := 0
  reqH := 0
  reqMode := .rowMajor
  reqThr := 0
  img := []
  bin := []
  out := []
  raced := []
  program := []
  schedule := []
  replies := []
  draws := 0
  resets := 0

end Sys2Proof.Machine
end

