-- ==== Sys2Proof/Machine/Operands.lean ====
section
/-! DEFINITION. The operands of commands and transactions: the effective threshold, the extents, the address of a sample,
the register of an offset (spec/30_encoding.md, spec/20_memory.md, spec/60_exceptions.md). -/

namespace Sys2Proof.Machine

/-- Rule R62: the command's threshold, 127 where it is unspecified. -/
def effectiveThreshold : Option Int → Int
  | none => Config.defaultThreshold
  | some t => t

/-- What accept puts into `req_thr`, 16 bits signed (rules R23, R120). The value of a well-formed operand is kept
(log 15). -/
def thresholdLatch (t : Option Int) : Half := BitVec.ofInt 16 (effectiveThreshold t)

/-- Rules R41, R42: the cell of pixel `(y, x)` of an image of width `w`, computed without wrap-around. -/
def sampleAddress (w y x : Nat) : Nat := y * w + x

/-- Rule R142: the condition of InvalidImageError, with the exact product. -/
def imageInvalid (s : State) : Bool :=
  decide (s.width = 0) || decide (s.height = 0) || decide (s.cfg.imgCap < s.width.toNat * s.height.toNat)

/-- The register at a byte offset (spec/10_state.md section 2, rule R70); no other offset is part of the block
(rule R29). -/
def Reg.ofOffset : Nat → Option Reg
  | 0x00 => some .cmd
  | 0x04 => some .status
  | 0x08 => some .width
  | 0x0C => some .height
  | 0x10 => some .outLen
  | 0x14 => some .pkRows
  | 0x18 => some .pkCols
  | 0x1C => some .resWidth
  | 0x20 => some .resHeight
  | _ => none

/-- The byte offset of a register (rule R70), for the lines of a host program that name it. -/
def Reg.offset : Reg → Nat
  | .cmd => 0x00
  | .status => 0x04
  | .width => 0x08
  | .height => 0x0C
  | .outLen => 0x10
  | .pkRows => 0x14
  | .pkCols => 0x18
  | .resWidth => 0x1C
  | .resHeight => 0x20

/-- Rule R16: a 16-bit register stores bits [15:0] of the written word. -/
def lowHalf (v : Word) : Half := v.setWidth 16

/-- Bits a register does not use read as 0 (rule R28). -/
def readHalf (v : Half) : Word := v.setWidth 32

end Sys2Proof.Machine
end

