-- ==== Sys2Proof/Machine/Flags.lean ====
section
/-! DEFINITION. STATUS: its word, its phase, and every way its fields change (spec/10_state.md rules R12, R14). -/

namespace Sys2Proof.Machine

/-- The value a host read of STATUS returns (rule R14): ERRCODE in [7:4], OVR in [3], ERR in [2], DONE in [1], BUSY in
[0], 0 above. -/
def Status.word (st : Status) : Word :=
  (st.errCode ++ BitVec.ofBool st.ovr ++ BitVec.ofBool st.err ++ BitVec.ofBool st.done ++ BitVec.ofBool st.busy).setWidth 32

/-- The phase (rule R12). -/
def Status.phase (st : Status) : Phase :=
  if st.busy then .busy else if st.done then .done else if st.err then .err else .idle

/-- The codes of rule R141. -/
def CommandError.code : CommandError → BitVec 4
  | .invalidImage => 1
  | .unsupportedMode => 2
  | .invalidThreshold => 3

/-- A CMD write that is not dropped first clears OVR, DONE, ERR and ERRCODE (rule R120). -/
def Status.cleared (st : Status) : Status := { st with ovr := false, done := false, err := false, errCode := 0 }

/-- Accept sets BUSY (rule R120). -/
def Status.accepted (st : Status) : Status := { st with busy := true }

/-- Error entry sets ERR and ERRCODE (rule R147). -/
def Status.errored (e : CommandError) (st : Status) : Status := { st with err := true, errCode := e.code }

/-- A dropped CMD write sets OVR (rule R152). -/
def Status.dropped (st : Status) : Status := { st with ovr := true }

/-- `Complete` clears BUSY and sets DONE; OVR keeps its value (rule R125). -/
def Status.completed (st : Status) : Status := { st with busy := false, done := true }

end Sys2Proof.Machine
end

