-- ==== Sys2Proof/Machine/Ops.lean ====
section
/-! DEFINITION. The shared operations: memories, registers, the issue of a command, error entry and what undoes it
(spec/20_memory.md, spec/43_conversion.md rules R120, R128, R129, spec/60_exceptions.md rule R147). -/

namespace Sys2Proof.Machine

/-! ### Memories -/

/-- The canonical form: addresses strictly rising. No entry can equal what an unlisted address reads as, which is no
value (log 2). -/
abbrev Memory.wf {w : Nat} (m : Memory w) : Prop := m.Pairwise (fun p q => p.1 < q.1)

/-- The content written to a cell, none for a cell not written since reset. -/
def Memory.read {w : Nat} : Memory w → Nat → Option (BitVec w)
  | [], _ => none
  | (b, v) :: m, a => if b = a then some v else Memory.read m a

/-- `MemWrite(S, a, 1, v)` (spec/00_scope.md section 6). -/
def Memory.write {w : Nat} : Memory w → Nat → BitVec w → Memory w
  | [], a, v => [(a, v)]
  | (b, u) :: m, a, v =>
    if a < b then (a, v) :: (b, u) :: m
    else if a = b then (a, v) :: m
    else (b, u) :: Memory.write m a v

/-- The writes of a list of cells, in its order. -/
def Memory.writeAll {w : Nat} (m : Memory w) : List (Nat × BitVec w) → Memory w
  | [] => m
  | c :: cs => Memory.writeAll (m.write c.1 c.2) cs

/-- What IMG cell `a` holds: the value written last, or the unspecified content reset left there (rule R30, log 2). -/
def imgCell (s : State) (a : Nat) : Byte := (s.img.read a).getD (Config.resetSample s.resets a)

/-- What BIN cell `a` holds (rule R57, log 2). -/
def binCell (s : State) (a : Nat) : Bit := (s.bin.read a).getD (Config.resetBinBit s.resets a)

/-- What OUT cell `i` holds (rule R57, log 2). -/
def outCell (s : State) (i : Nat) : Byte := (s.out.read i).getD (Config.resetOutByte s.resets i)

/-! ### The samples a conversion reads -/

/-- What a recorded content of IMG cell `a` was: `none` records a cell not written since reset. -/
def recordedSample (s : State) (a : Nat) (v : Option Byte) : Byte := v.getD (Config.resetSample s.resets a)

/-- The contents IMG cell `a` had during the running conversion and has no longer, newest first (rule R169). -/
def replacedSamples (s : State) (a : Nat) : List Byte :=
  (s.raced.filter (fun p => p.1 = a)).map (fun p => recordedSample s a p.2)

/-- Rule R169: the values `Complete` may read from cell `a`, which are the one it held at accept and every one written
to it during BUSY. -/
def sampleCandidates (s : State) (a : Nat) : List Byte := imgCell s a :: replacedSamples s a

/-- The sample `Complete` reads from cell `a`: the cell's content, or, where the host wrote the cell during BUSY, a
free choice among the candidates (rule R169, log 6). -/
def sample (s : State) (a : Nat) : Byte :=
  match replacedSamples s a with
  | [] => imgCell s a
  | old => (imgCell s a :: old).getD (Config.raceChoice s.draws a % (old.length + 1)) (imgCell s a)

/-- The record of an `ImgWrite` to cell `a`: during BUSY a write to a cell of the running image notes the content it
replaces (rule R169); any other write notes nothing. -/
def racedAfterWrite (s : State) (a : Nat) : List (Nat × Option Byte) :=
  if s.status.busy = true ∧ a < s.reqW.toNat * s.reqH.toNat then (a, s.img.read a) :: s.raced else s.raced

/-- `IMG[a] <- v` (rule R130). -/
def storeSample (a : Nat) (v : Byte) (s : State) : State :=
  { s with img := s.img.write a v, raced := racedAfterWrite s a }

/-! ### Registers -/

/-- The value of a register as a host read returns it (rules R13 to R22, R128). -/
def readReg (s : State) : Reg → Word
  | .cmd => 0
  | .status => s.status.word
  | .width => readHalf s.width
  | .height => readHalf s.height
  | .outLen => s.outLen
  | .pkRows => readHalf s.pkRows
  | .pkCols => readHalf s.pkCols
  | .resWidth => readHalf s.resWidth
  | .resHeight => readHalf s.resHeight

/-- A write to WIDTH (rules R16, R129). -/
def setWidth (v : Word) (s : State) : State := { s with width := lowHalf v }

/-- A write to HEIGHT (rules R17, R129). -/
def setHeight (v : Word) (s : State) : State := { s with height := lowHalf v }

/-- The host receives the value of a read (log 11). A read changes nothing in the block (rule R46). -/
def answer (r : Reply) (s : State) : State := { s with replies := r :: s.replies }

/-- The host's transactions still to come (log 8). -/
def setProgram (lines : List HostOp) (s : State) : State := { s with program := lines }

/-- A free value has been used (log 5). -/
def drawn (s : State) : State := { s with draws := s.draws + 1 }

/-! ### The issue of a command (rule R120) and error entry (rule R147) -/

/-- A CMD write made while BUSY = 1: OVR is set and nothing else changes (rules R120, R152). -/
def dropCommand (s : State) : State := { s with status := s.status.dropped }

/-- What every CMD write that is not dropped does first: it clears the outcome of the command before, which is also all
the return from an error there is (rules R120, R149). -/
def clearOutcome (s : State) : State :=
  { s with
    status := s.status.cleared
    outLen := 0
    pkRows := 0
    pkCols := 0
    resWidth := 0
    resHeight := 0 }

/-- Error entry, `raise E` (rule R147): the flag and the code; nothing is saved and control goes nowhere. -/
def raiseError (e : CommandError) (s : State) : State := { s with status := s.status.errored e }

/-- Accept: the request is latched and BUSY is set (rule R120). No image cell has been written since. -/
def acceptRequest (mode : ScanMode) (thr : Half) (s : State) : State :=
  { s with
    status := s.status.accepted
    reqW := s.width
    reqH := s.height
    reqMode := mode
    reqThr := thr
    raced := [] }

/-- Rule R120 for a command word: `request` is its mode and threshold, none for an illegal command. -/
def issue (request : Option (ScanMode × Half)) (s : State) : State :=
  if s.status.busy then dropCommand s
  else if imageInvalid s then raiseError .invalidImage (clearOutcome s)
  else
    match request with
    | none => raiseError .unsupportedMode (clearOutcome s)
    | some (mode, thr) => acceptRequest mode thr (clearOutcome s)

end Sys2Proof.Machine
end

