-- ==== Sys2Proof/Machine/Binarizer.lean ====
section
/-! DEFINITION. Stage 1, the Binarizer (spec/40_binarizer.md), and the matrices the stages pass on. -/

namespace Sys2Proof.Machine

/-- A matrix of bits with its extents; `bit r c` is read for `r < rows` and `c < cols` only (spec/00_scope.md
section 5). It exists inside `Complete` and is no state (rule R27). -/
structure Matrix where
  rows : Nat
  cols : Nat
  bit : Nat → Nat → Bit

/-- Rules R80, R82: strictly greater, on the integers. -/
def sampleBit (lum : Byte) (thr : Int) : Bit := if thr < (lum.toNat : Int) then 1 else 0

/-- `Binarize(lum, H, W, thr)` (rule R80). -/
def binarize (lum : Nat → Nat → Byte) (h w : Nat) (thr : Int) : Matrix where
  rows := h
  cols := w
  bit := fun y x => sampleBit (lum y x) thr

/-- The bits of a matrix at their BIN cells, `B(y, x)` at `y*W + x` (rule R42), in row-major order. -/
def Matrix.binCells (b : Matrix) : List (Nat × Bit) :=
  (List.range b.rows).flatMap fun y => (List.range b.cols).map fun x => (sampleAddress b.cols y x, b.bit y x)

end Sys2Proof.Machine
end

