-- ==== Sys2Proof/Machine/ScanOrder.lean ====
section
/-! DEFINITION. Stage 2, the Scan-Order Transformer (spec/41_scan_order.md): one definition per mode, each with the true
extents (rules R96, R97). -/

namespace Sys2Proof.Machine

/-- RowMajor (rule R91). -/
def transformRowMajor (b : Matrix) : Matrix where
  rows := b.rows
  cols := b.cols
  bit := fun r c => b.bit r c

/-- ColumnMajor (rule R92): row `r` of the result is column `r` of `b`, top to bottom. -/
def transformColumnMajor (b : Matrix) : Matrix where
  rows := b.cols
  cols := b.rows
  bit := fun r c => b.bit c r

/-- RowSerpentine (rule R93): rows of odd index reversed. -/
def transformRowSerpentine (b : Matrix) : Matrix where
  rows := b.rows
  cols := b.cols
  bit := fun r c => if r % 2 = 0 then b.bit r c else b.bit r (b.cols - 1 - c)

/-- ColumnSerpentine (rule R94): the transpose, its rows of odd index reversed. -/
def transformColumnSerpentine (b : Matrix) : Matrix where
  rows := b.cols
  cols := b.rows
  bit := fun r c => if r % 2 = 0 then b.bit c r else b.bit (b.rows - 1 - c) r

/-- `Transform(B, H, W, mode)` (rule R90): the mode is "selected once via a total match". -/
def transform : ScanMode → Matrix → Matrix
  | .rowMajor, b => transformRowMajor b
  | .columnMajor, b => transformColumnMajor b
  | .rowSerpentine, b => transformRowSerpentine b
  | .columnSerpentine, b => transformColumnSerpentine b

end Sys2Proof.Machine
end

