-- ==== Sys2Proof/Machine/BytePacker.lean ====
section
/-! DEFINITION. Stage 3, the Byte Packer (spec/42_byte_packer.md). -/

namespace Sys2Proof.Machine

/-- `ceil(rows/8)` (rule R109). -/
def stripCount (rows : Nat) : Nat := (rows + (Config.stripRows - 1)) / Config.stripRows

/-- What row `8*s + b` adds to the byte of strip `s` and column `c`: `M(8*s+b, c) << b`, and nothing for a row beyond
the extent (rules R105, R107). -/
def packedBit (m : Matrix) (s c b : Nat) : Byte :=
  if Config.stripRows * s + b < m.rows then (m.bit (Config.stripRows * s + b) c).setWidth 8 <<< b else 0

/-- The byte of strip `s` and column `c`: the OR over the eight rows (rule R105). -/
def packedByte (m : Matrix) (s c : Nat) : Byte :=
  (List.range Config.stripRows).foldl (fun byte b => byte ||| packedBit m s c b) 0

/-- `Pack(M, rows, cols)` (rule R105): strip by strip, and within a strip column by column (rule R108). -/
def pack (m : Matrix) : List Byte :=
  (List.range (stripCount m.rows)).flatMap fun s => (List.range m.cols).map fun c => packedByte m s c

/-- The bytes at their OUT cells: byte `i` at cell `i` (rule R43). -/
def outCells (bytes : List Byte) : List (Nat × Byte) := bytes.zipIdx.map fun p => (p.2, p.1)

end Sys2Proof.Machine
end

