-- ==== Sys2Proof/Machine/Complete.lean ====
section
/-! DEFINITION. The conversion as a pure function (rules R2, R125) and the codec's step `Complete` (rule R125). -/

namespace Sys2Proof.Machine

/-- What `Convert` returns: the BinaryMatrix, the TransformedMatrix with its extents, and the ByteSequence. -/
structure Conversion where
  binary : Matrix
  transformed : Matrix
  bytes : List Byte

/-- `Convert(lum, W, H, mode, thr)` (rule R125): "it reads nothing but its arguments". -/
def convert (lum : Nat → Nat → Byte) (w h : Nat) (mode : ScanMode) (thr : Int) : Conversion where
  binary := binarize lum h w thr
  transformed := transform mode (binarize lum h w thr)
  bytes := pack (transform mode (binarize lum h w thr))

/-- `lum(y, x)` of the latched request (rule R41). -/
def requestedSample (s : State) (y x : Nat) : Byte := sample s (sampleAddress s.reqW.toNat y x)

/-- The conversion the latches ask for. -/
def requestedConversion (s : State) : Conversion :=
  convert (requestedSample s) s.reqW.toNat s.reqH.toNat s.reqMode s.reqThr.toInt

/-- `Complete` (rule R125), one atomic step, taken only while BUSY = 1. It writes the cells of rule R56, the result
registers and STATUS; the race record ends with the conversion and its draw is used up (log 6). -/
def complete (s : State) : State :=
  let r := requestedConversion s
  { s with
    bin := s.bin.writeAll r.binary.binCells
    out := s.out.writeAll (outCells r.bytes)
    outLen := BitVec.ofNat 32 r.bytes.length
    pkRows := BitVec.ofNat 16 r.transformed.rows
    pkCols := BitVec.ofNat 16 r.transformed.cols
    resWidth := s.reqW
    resHeight := s.reqH
    status := s.status.completed
    raced := []
    draws := s.draws + 1 }

end Sys2Proof.Machine
end

