-- ==== Sys2Proof/Machine/Conversion.lean ====
section
/-! DEFINITION. The meanings of the four conversion commands (rules R121 to R124): each is the issue of rule R120 with its
own mode. The conversion itself is the codec's later step (`complete`, Machine/Complete.lean): "completion is always a
separate, later step, however small the image". -/

namespace Sys2Proof.Machine

/-- `CONV.RM [#t]` (rule R121). -/
def execConvRm (thr : Option Int) (s : State) : Host.Outcome State Fault Refusal :=
  .next (issue (some (.rowMajor, thresholdLatch thr)) s)

/-- `CONV.CM [#t]` (rule R122). -/
def execConvCm (thr : Option Int) (s : State) : Host.Outcome State Fault Refusal :=
  .next (issue (some (.columnMajor, thresholdLatch thr)) s)

/-- `CONV.RS [#t]` (rule R123). -/
def execConvRs (thr : Option Int) (s : State) : Host.Outcome State Fault Refusal :=
  .next (issue (some (.rowSerpentine, thresholdLatch thr)) s)

/-- `CONV.CS [#t]` (rule R124). -/
def execConvCs (thr : Option Int) (s : State) : Host.Outcome State Fault Refusal :=
  .next (issue (some (.columnSerpentine, thresholdLatch thr)) s)

/-- The CMD write of an illegal command (rules R64, R120, R143): no instruction, the same issue without a request. -/
def execIllegalCommand (s : State) : Host.Outcome State Fault Refusal := .next (issue none s)

end Sys2Proof.Machine
end

