-- ==== Sys2Proof/Machine/Dispatch.lean ====
section
/-! DEFINITION. One arm per instruction of spec/opcode_table.json. -/

namespace Sys2Proof.Machine

def exec (i : Instr) (s : State) : Host.Outcome State Fault Refusal :=
  match i with
  | .convRm thr => Sys2Proof.Machine.execConvRm thr s
  | .convCm thr => Sys2Proof.Machine.execConvCm thr s
  | .convRs thr => Sys2Proof.Machine.execConvRs thr s
  | .convCs thr => Sys2Proof.Machine.execConvCs thr s

end Sys2Proof.Machine
end

