-- ==== Sys2Proof/Machine/Transactions.lean ====
section
/-! DEFINITION. The host's transactions (spec/43_conversion.md rules R120, R128 to R133; spec/30_encoding.md rule R69). -/

namespace Sys2Proof.Machine

/-- `RegWrite(0x00, C)`: the issue of command word `C` (rules R13, R120). A word that arrives while BUSY = 1 is dropped
whatever it decodes to (rule R152): both branches see to that by `issue`. -/
def issueWord (c : Word) (s : State) : Host.Outcome State Fault Refusal :=
  match decode c with
  | .instr i => exec i s
  | .illegal _ => execIllegalCommand s

/-- `RegWrite` of a value to one register (rules R28, R120, R129): a write to a read-only register is ignored. -/
def writeReg (r : Reg) (v : Word) (s : State) : Host.Outcome State Fault Refusal :=
  match r with
  | .cmd => issueWord v s
  | .width => .next (setWidth v s)
  | .height => .next (setHeight v s)
  | .status | .outLen | .pkRows | .pkCols | .resWidth | .resHeight => .next s

/-- `RegRead(off)` (rule R128); an offset other than the nine is refused (rule R29, U6). -/
def hostRegRead (off : Nat) (s : State) : Host.Outcome State Fault Refusal :=
  match Reg.ofOffset off with
  | some r => .next (answer (.reg (readReg s r)) s)
  | none => .refused (.noRegister off)

/-- `RegWrite(off, v)` (rules R120, R129); an offset other than the nine is refused (rule R29, U6). -/
def hostRegWrite (off : Nat) (v : Word) (s : State) : Host.Outcome State Fault Refusal :=
  match Reg.ofOffset off with
  | some r => writeReg r v s
  | none => .refused (.noRegister off)

/-- `ImgWrite(a, v)` (rule R130), allowed in every phase. -/
def hostImgWrite (a : Nat) (v : Byte) (s : State) : Host.Outcome State Fault Refusal :=
  if a < s.cfg.imgCap then .next (storeSample a v s) else .refused (.noCell a)

/-- `ImgRead(a)` (rule R131), exact in every phase. -/
def hostImgRead (a : Nat) (s : State) : Host.Outcome State Fault Refusal :=
  if a < s.cfg.imgCap then .next (answer (.cell (imgCell s a)) s) else .refused (.noCell a)

/-- `OutRead(i)` (rule R132): during BUSY any value, drawn per read (rule R170, log 5). -/
def hostOutRead (i : Nat) (s : State) : Host.Outcome State Fault Refusal :=
  if i < s.cfg.imgCap then
    if s.status.busy then .next (drawn (answer (.cell (Config.busyOutByte s.draws)) s))
    else .next (answer (.cell (outCell s i)) s)
  else .refused (.noCell i)

/-- `BinRead(a)` (rule R133): during BUSY any value, drawn per read (rule R170, log 5). -/
def hostBinRead (a : Nat) (s : State) : Host.Outcome State Fault Refusal :=
  if a < s.cfg.imgCap then
    if s.status.busy then .next (drawn (answer (.bit (Config.busyBinBit s.draws)) s))
    else .next (answer (.bit (binCell s a)) s)
  else .refused (.noCell a)

/-- `WAIT` (rule R69): one read of STATUS; the line stays first in the program while the value read has BUSY = 1. -/
def hostWait (s : State) : Host.Outcome State Fault Refusal :=
  if (readReg s .status).getLsbD 0 then
    .next (setProgram (.wait :: s.program) (answer (.reg (readReg s .status)) s))
  else .next (answer (.reg (readReg s .status)) s)

/-- One line of the host's program, in the state that has the line taken out. -/
def hostOp (op : HostOp) (s : State) : Host.Outcome State Fault Refusal :=
  match op with
  | .regRead off => hostRegRead off s
  | .regWrite off v => hostRegWrite off v s
  | .imgWrite a v => hostImgWrite a v s
  | .imgRead a => hostImgRead a s
  | .outRead i => hostOutRead i s
  | .binRead a => hostBinRead a s
  | .wait => hostWait s

/-- The line `WR NAME, v` (rule R69). -/
def writeLine (r : Reg) (v : Word) : HostOp := .regWrite r.offset v

/-- The line `RD NAME` (rule R69). -/
def readLine (r : Reg) : HostOp := .regRead r.offset

/-- The line `CONV.xx [#t]` (rule R69): the CMD write of the command's word (rule R73). -/
def commandLine (i : Instr) : HostOp := .regWrite (Reg.offset .cmd) (encode i)

/-- The pseudo-instruction `IMGL a, v0 v1 … vn` (rule R69) as the transactions it stands for. -/
def loadSamples (a : Nat) : List Byte → List HostOp
  | [] => []
  | v :: vs => .imgWrite a v :: loadSamples (a + 1) vs

end Sys2Proof.Machine
end

