-- ==== Sys2Proof/Machine/Agents.lean ====
section
/-! DEFINITION. Who moves next, and the step each mover takes (rules R7, R12, R125, R135, R165; logs 7 to 10). -/

namespace Sys2Proof.Machine

/-- What is enabled when the schedule does not say otherwise: the codec while BUSY = 1, else the host while it has a
transaction to make, else nothing (rules R125, R159; log 7). -/
def defaultTurn (s : State) : Option Turn :=
  if s.status.busy then some .codec else if s.program.isEmpty then none else some .host

/-- Who moves: reset where the schedule says so (rule R165); the host where the schedule says so and it has a
transaction to make; else the default. -/
def nextTurn (s : State) : Option Turn :=
  match s.schedule with
  | .reset :: _ => some .reset
  | .host :: _ => if s.program.isEmpty then defaultTurn s else some .host
  | _ => defaultTurn s

/-- A step uses up one entry of the schedule. -/
def takeTurn (s : State) : State := { s with schedule := s.schedule.tail }

/-- The reset event (rule R165): every piece of the block's state at its value after reset, whatever it was. The host's
program, its answers and the schedule are outside the block; the new number of resets makes all memory contents
unspecified anew (log 10). -/
def resetEvent (s : State) : State :=
  { State.reset with
    cfg := s.cfg
    program := s.program
    schedule := s.schedule
    replies := s.replies
    draws := s.draws
    resets := s.resets + 1 }

/-- The host makes its next transaction. -/
def hostTurn (s : State) : Host.Outcome State Fault Refusal :=
  match s.program with
  | [] => .next s
  | op :: rest => hostOp op (setProgram rest s)

/-- The step of a mover; with nobody to move the block "does nothing on its own" (rules R159, R166; log 9). -/
def runTurn (t : Option Turn) (s : State) : Host.Outcome State Fault Refusal :=
  match t with
  | some .host => hostTurn s
  | some .codec => .next (complete s)
  | some .reset => .next (resetEvent s)
  | none => .next s

/-- A command word put first among the host's transactions, with the host to move: the next step issues it (log 8). -/
def placeCommand (c : Word) (s : State) : State :=
  { s with program := .regWrite 0x00 c :: s.program, schedule := .host :: s.schedule }

end Sys2Proof.Machine
end

