-- ==== Sys2Proof/Safety.lean ====
section
/-! DEFINITION. The terms claims use: the legal values of STATUS (rule R15), the invariant of the machine, what a
conversion needs (rules R142, R160, R167), and the hazards a host must respect (rules R168 to R173). -/

namespace Sys2Proof.Machine

/-- Rule R15 (i), (ii) and its last sentence: at most one of BUSY, DONE, ERR; ERRCODE is 1 or 2 exactly when ERR = 1 and
0 otherwise; OVR only with BUSY or DONE. Clause (iv) is the form of `Status`. -/
abbrev Status.legal (st : Status) : Prop :=
  ¬ (st.busy = true ∧ st.done = true) ∧ ¬ (st.busy = true ∧ st.err = true) ∧ ¬ (st.done = true ∧ st.err = true) ∧
  (st.err = true → st.errCode = 1 ∨ st.errCode = 2) ∧ (st.err = false → st.errCode = 0) ∧
  (st.ovr = true → st.busy = true ∨ st.done = true)

/-- The five result registers read 0. -/
abbrev State.resultCleared (s : State) : Prop :=
  s.outLen = 0 ∧ s.pkRows = 0 ∧ s.pkCols = 0 ∧ s.resWidth = 0 ∧ s.resHeight = 0

/-- The five result registers describe one result (rules R18 to R22): true extents of an image that fits, and the byte
count of rule R109. -/
abbrev State.resultDescribed (s : State) : Prop :=
  0 < s.resWidth.toNat * s.resHeight.toNat ∧ s.resWidth.toNat * s.resHeight.toNat ≤ s.cfg.imgCap ∧
  ((s.pkRows = s.resHeight ∧ s.pkCols = s.resWidth) ∨ (s.pkRows = s.resWidth ∧ s.pkCols = s.resHeight)) ∧
  s.outLen.toNat = stripCount s.pkRows.toNat * s.pkCols.toNat

/-- Every cell of a memory that has been written is below the capacity. -/
abbrev Memory.below {w : Nat} (m : Memory w) (cap : Nat) : Prop := ∀ p ∈ m, p.1 < cap

/-- The invariant of the machine: it rules out only states no run reaches. -/
structure State.Inv (s : State) : Prop where
  /-- Rule R5: the capacity is a legal one. -/
  cfg : s.cfg.wf
  /-- The memories are in canonical form. -/
  imgWf : s.img.wf
  binWf : s.bin.wf
  outWf : s.out.wf
  /-- Rules R24 to R26: they have `IMG_CAP` cells. -/
  imgBelow : s.img.below s.cfg.imgCap
  binBelow : s.bin.below s.cfg.imgCap
  outBelow : s.out.below s.cfg.imgCap
  /-- Rule R15. -/
  status : s.status.legal
  /-- Rule R145: a latched request has passed the checks. -/
  busyRequest : s.status.busy = true →
    0 < s.reqW.toNat * s.reqH.toNat ∧ s.reqW.toNat * s.reqH.toNat ≤ s.cfg.imgCap
  /-- Rules R18 to R22: outside DONE the result registers hold 0. -/
  notDone : s.status.done = false → s.resultCleared
  /-- Rules R18 to R22: in DONE they describe a result. -/
  doneResult : s.status.done = true → s.resultDescribed
  /-- Rules R25 and R26: in DONE the cells of the result have been written. -/
  doneBin : s.status.done = true → ∀ a < s.resWidth.toNat * s.resHeight.toNat, (s.bin.read a).isSome = true
  doneOut : s.status.done = true → ∀ i < s.outLen.toNat, (s.out.read i).isSome = true
  /-- Rule R169: only cells of the running image can be raced. -/
  raced : ∀ p ∈ s.raced, s.status.busy = true ∧ p.1 < s.reqW.toNat * s.reqH.toNat

/-- The binary matrix the host reads from BIN in phase DONE (rules R25, R126). -/
def State.binMatrix (s : State) : Matrix where
  rows := s.resHeight.toNat
  cols := s.resWidth.toNat
  bit := fun y x => binCell s (sampleAddress s.resWidth.toNat y x)

/-- Rules R126 and R169: in DONE, OUT is what some mode makes of the very matrix in BIN. -/
abbrev State.outAgreesWithBin (s : State) : Prop :=
  s.status.done = true →
    ∃ mode, (transform mode s.binMatrix).rows = s.pkRows.toNat ∧ (transform mode s.binMatrix).cols = s.pkCols.toNat ∧
      (List.range s.outLen.toNat).map (outCell s) = pack (transform mode s.binMatrix)

/-- Rule R160: a CMD write of a recognised mode in this state is accepted. -/
abbrev State.readyToConvert (s : State) : Prop :=
  s.status.busy = false ∧ 1 ≤ s.width.toNat ∧ 1 ≤ s.height.toNat ∧ s.width.toNat * s.height.toNat ≤ s.cfg.imgCap

/-- Rule R167 (2): every cell of the image has been written since reset. -/
def State.imageWritten (s : State) : Bool :=
  (List.range (s.width.toNat * s.height.toNat)).all fun a => (s.img.read a).isSome

/-- A CMD write of this word starts a conversion: the state is ready and the mode is a recognised one (rule R160). -/
def State.startsConversion (s : State) (c : Word) : Bool := decide s.readyToConvert && decide ((modeField c).toNat < 4)

/-- A transaction inside the block's map (rules R29, R47). -/
def HostOp.inMap (cfg : Config) : HostOp → Bool
  | .regRead off => (Reg.ofOffset off).isSome
  | .regWrite off _ => (Reg.ofOffset off).isSome
  | .imgWrite a _ => decide (a < cfg.imgCap)
  | .imgRead a => decide (a < cfg.imgCap)
  | .outRead i => decide (i < cfg.imgCap)
  | .binRead a => decide (a < cfg.imgCap)
  | .wait => true

/-- The hazards of spec/70_reset_and_hazards.md section 2. -/
inductive Hazard where
  /-- Rule R168. -/
  | commandWhileBusy
  /-- Rule R169. -/
  | imageWriteWhileBusy
  /-- Rule R170. -/
  | resultReadWhileBusy
  /-- Rule R171. -/
  | resultReadOutsideDone
  /-- Rule R172. -/
  | imageNotWritten
  /-- Rule R173. -/
  | readBeyondResult
deriving DecidableEq, Repr

/-- Whether a transaction in a state runs into a hazard. Rule R172 speaks of a conversion that reads an unwritten cell, so
a refused command does not run into it. -/
def Hazard.arises (s : State) : Hazard → HostOp → Bool
  | .commandWhileBusy, .regWrite 0x00 _ => s.status.busy
  | .imageWriteWhileBusy, .imgWrite a _ => s.status.busy && decide (a < s.reqW.toNat * s.reqH.toNat)
  | .resultReadWhileBusy, .outRead _ => s.status.busy
  | .resultReadWhileBusy, .binRead _ => s.status.busy
  | .resultReadOutsideDone, .outRead _ => !s.status.busy && !s.status.done
  | .resultReadOutsideDone, .binRead _ => !s.status.busy && !s.status.done
  | .imageNotWritten, .regWrite 0x00 c => s.startsConversion c && !s.imageWritten
  | .readBeyondResult, .outRead i => s.status.done && decide (s.outLen.toNat ≤ i)
  | .readBeyondResult, .binRead a => s.status.done && decide (s.resWidth.toNat * s.resHeight.toNat ≤ a)
  | _, _ => false

/-- A transaction that runs into none of them. -/
def State.hazardFree (s : State) (op : HostOp) : Bool :=
  [Hazard.commandWhileBusy, .imageWriteWhileBusy, .resultReadWhileBusy, .resultReadOutsideDone, .imageNotWritten,
    .readBeyondResult].all fun h => !h.arises s op

/-! ### The spec's tables, for statements -/

/-- The number `req_mode` holds for a mode (rule R23). -/
def ScanMode.number : ScanMode → Nat
  | .rowMajor => 0
  | .columnMajor => 1
  | .rowSerpentine => 2
  | .columnSerpentine => 3

/-- Rule R96, column "transposes". -/
def ScanMode.transposes : ScanMode → Bool
  | .rowMajor => false
  | .columnMajor => true
  | .rowSerpentine => false
  | .columnSerpentine => true

/-- Rule R96, column "reverses odd rows". -/
def ScanMode.reversesOddRows : ScanMode → Bool
  | .rowMajor => false
  | .columnMajor => false
  | .rowSerpentine => true
  | .columnSerpentine => true

/-- The number of rows of the transformed matrix of an image of width `w` and height `h` (rule R96). -/
def ScanMode.rows (mode : ScanMode) (w h : Nat) : Nat := if mode.transposes then w else h

/-- Its number of columns (rule R96). -/
def ScanMode.cols (mode : ScanMode) (w h : Nat) : Nat := if mode.transposes then h else w

/-- The pixel `(y, x)` that element `(r, c)` of the transformed matrix is (rule R113, last column). -/
def ScanMode.pixel (mode : ScanMode) (w h r c : Nat) : Nat × Nat :=
  match mode with
  | .rowMajor => (r, c)
  | .columnMajor => (c, r)
  | .rowSerpentine => if r % 2 = 0 then (r, c) else (r, w - 1 - c)
  | .columnSerpentine => if r % 2 = 0 then (c, r) else (h - 1 - c, r)

/-- Two matrices with the same extents and the same bits within them. -/
def Matrix.Same (a b : Matrix) : Prop :=
  a.rows = b.rows ∧ a.cols = b.cols ∧ ∀ r < a.rows, ∀ c < a.cols, a.bit r c = b.bit r c

/-- A run of `k` steps, stopped by the first fault or refusal. -/
def runSteps : Nat → State → Host.Outcome State Fault Refusal
  | 0, s => .next s
  | k + 1, s =>
    match step s with
    | .next u => runSteps k u
    | .fault f => .fault f
    | .refused r => .refused r

/-- `u` is the first state after BUSY in the run from `a`, `k` steps on, and it shows DONE. -/
abbrev State.doneAfter (k : Nat) (a u : State) : Prop :=
  runSteps k a = .next u ∧ u.status.done = true ∧ ∀ j < k, ∃ v, runSteps j a = .next v ∧ v.status.busy = true

/-- What stands in the schedule of a running conversion is no reset, and the transactions the host can make before the
schedule is used up (log 7) are inside the map and write no cell of the image (rules R165, R169). -/
abbrev State.undisturbed (a : State) : Prop :=
  (∀ t ∈ a.schedule, t ≠ .reset) ∧
  ∀ op ∈ a.program.take a.schedule.length,
    op.inMap a.cfg = true ∧ Hazard.imageWriteWhileBusy.arises a op = false

/-- A list of `ImgWrite`s made one after the other. -/
def storeSamples (ws : List (Nat × Byte)) (s : State) : State := ws.foldl (fun u p => storeSample p.1 p.2 u) s

/-- The threshold of a command word as rule R62 writes it. -/
def wordThreshold (c : Word) : Int := if c.getLsbD 15 then (c.extractLsb' 16 16).toInt else 127

/-- Rule R142's condition in the spec's own terms. -/
abbrev State.badExtents (s : State) : Prop :=
  s.width.toNat = 0 ∨ s.height.toNat = 0 ∨ s.cfg.imgCap < s.width.toNat * s.height.toNat

end Sys2Proof.Machine

/-- The ScanMode of a command (rule R63, third column). -/
def Sys2Proof.Instr.scanMode : Sys2Proof.Instr → Sys2Proof.Machine.ScanMode
  | .convRm _ => .rowMajor
  | .convCm _ => .columnMajor
  | .convRs _ => .rowSerpentine
  | .convCs _ => .columnSerpentine
end

