-- ==== Sys2Proof/Certificates/Slice0/Obligations.lean ====
section
/-! DEFINITION. The statements for the provers. Each docstring names the rule of spec/ it formalises; where a statement
rests on a choice of the model's own it says so and names the log entry. -/

open Sys2Proof Sys2Proof.Machine

/-! ### The command word (spec/30_encoding.md) -/

/-- Rule R73: `decode(encode(m, t))` gives mode `m` and threshold `t`, for every threshold the field can hold. -/
def Obligations.EncodeThenDecodeGivesTheInstruction : Prop :=
  ∀ i : Instr, i.wf = true → decode (encode i) = .instr i

/-- Rule R73: `encode(decode(C)) = C` holds exactly for the words with TV = 1 or THR = 0, and what is decoded is well
formed. -/
def Obligations.DecodeThenEncodeGivesTheWordWhenNothingIsIgnored : Prop :=
  ∀ (c : Word) (i : Instr), decode c = .instr i →
    i.wf = true ∧ (encode i = c ↔ (c.getLsbD 15 = true ∨ c.extractLsb' 16 16 = 0))

/-- Rule R63: a word is the instruction of a row exactly when `C & 0x00007FFF` is the row's match value; bit 0 of MODE
says transposing and bit 1 serpentine. -/
def Obligations.WordIsTheRowsInstructionExactlyWhenItsMaskMatches : Prop :=
  (∀ c : Word,
    ((∃ t, decode c = .instr (.convRm t)) ↔ c &&& 0x00007FFF#32 = 0x00000000#32) ∧
    ((∃ t, decode c = .instr (.convCm t)) ↔ c &&& 0x00007FFF#32 = 0x00000001#32) ∧
    ((∃ t, decode c = .instr (.convRs t)) ↔ c &&& 0x00007FFF#32 = 0x00000002#32) ∧
    ((∃ t, decode c = .instr (.convCs t)) ↔ c &&& 0x00007FFF#32 = 0x00000003#32)) ∧
  (∀ (c : Word) (i : Instr), decode c = .instr i →
    i.scanMode.transposes = c.getLsbD 0 ∧ i.scanMode.reversesOddRows = c.getLsbD 1)

/-- Rule R62: the effective threshold is `sext_16(C[31:16])` if `C[15] = 1` and 127 otherwise, the latch of accept keeps
it, and THR is ignored when TV = 0. -/
def Obligations.EffectiveThresholdIsTheFieldOrTheDefault : Prop :=
  (∀ (c : Word) (i : Instr), decode c = .instr i →
    effectiveThreshold i.threshold = (if c.getLsbD 15 then (c.extractLsb' 16 16).toInt else 127) ∧
    (thresholdLatch i.threshold).toInt = effectiveThreshold i.threshold) ∧
  (∀ c : Word, c.getLsbD 15 = false → decode (c &&& 0x0000FFFF#32) = decode c)

/-- Rule R64: every word with MODE 4 or more, and no other, is illegal; written while BUSY = 0 it converts nothing and
raises UnsupportedModeError (STATUS 0x24), unless InvalidImageError (0x14) has priority. -/
def Obligations.IllegalCommandConvertsNothingAndIsReported : Prop :=
  ∀ c : Word,
    ((∃ m, decode c = .illegal m) ↔ 4 ≤ (c.extractLsb' 0 15).toNat) ∧
    (4 ≤ (c.extractLsb' 0 15).toNat → decode c = .illegal (c.extractLsb' 0 15) ∧
      ∀ s : State, s.status.busy = false →
        ∃ u, issueWord c s = .next u ∧ u.status.word = (if s.badExtents then 0x14 else 0x24) ∧
          u.img = s.img ∧ u.bin = s.bin ∧ u.out = s.out)

/-- Words written out from the fields of rule R60 (vectors V-ENC-1, 6, 7, 8, 9, 13, 14, 18 of
spec/95_test_vectors.md). -/
def Obligations.WordsOfTheSpecDecode : Prop :=
  decode 0x00000000#32 = .instr (.convRm none) ∧
  decode 0x00648003#32 = .instr (.convCs (some 100)) ∧
  decode 0xFFFF8000#32 = .instr (.convRm (some (-1))) ∧
  decode 0x01008001#32 = .instr (.convCm (some 256)) ∧
  decode 0x00008002#32 = .instr (.convRs (some 0)) ∧
  decode 0x12340002#32 = .instr (.convRs none) ∧
  decode 0x00000004#32 = .illegal 4 ∧
  decode 0x00004000#32 = .illegal 16384

/-- Rules R13, R69: when it is the host's turn and its next transaction writes the word of an instruction to CMD, the step
is that instruction's `exec`, in the state with the transaction and the turn used up; the word of an illegal command
is issued without a request. The placement of `withFetchWord` (log 8) makes exactly this happen. -/
def Obligations.StepRunsTheDecodedInstruction : Prop :=
  (∀ (s : State) (c : Word) (rest : List HostOp), s.program = .regWrite 0x00 c :: rest → nextTurn s = some .host →
    (∀ i, decode c = .instr i → step s = exec i { s with program := rest, schedule := s.schedule.tail }) ∧
    (∀ m, decode c = .illegal m →
      step s = .next (issue none { s with program := rest, schedule := s.schedule.tail }))) ∧
  (∀ (s : State) (w : Nat) (i : Instr), decodeTableWord 32 w = some i → step (s.withFetchWord 32 w) = exec i s)

/-! ### Stage 1, the Binarizer (spec/40_binarizer.md) -/

/-- Rules R80, R81: the extents of the image, every cell 0 or 1, and 1 exactly for a sample strictly greater than the
threshold. -/
def Obligations.BinarizerComparesStrictlyAndKeepsTheExtents : Prop :=
  ∀ (lum : Nat → Nat → Byte) (h w : Nat) (thr : Int),
    (binarize lum h w thr).rows = h ∧ (binarize lum h w thr).cols = w ∧
    ∀ y < h, ∀ x < w,
      ((binarize lum h w thr).bit y x = 1 ↔ thr < ((lum y x).toNat : Int)) ∧
      ((binarize lum h w thr).bit y x = 0 ∨ (binarize lum h w thr).bit y x = 1)

/-- Rule R83: a negative threshold gives all ones, one of 255 or more all zeros, 0 gives 1 for every sample but 0,
clamping to [-1, 255] changes nothing, and no threshold is an error. -/
def Obligations.ThresholdsOutsideTheSampleRangeAreDegenerate : Prop :=
  (∀ (lum : Nat → Nat → Byte) (h w : Nat) (thr : Int), ∀ y < h, ∀ x < w,
    (thr < 0 → (binarize lum h w thr).bit y x = 1) ∧
    (255 ≤ thr → (binarize lum h w thr).bit y x = 0) ∧
    ((binarize lum h w 0).bit y x = 0 ↔ lum y x = 0) ∧
    (binarize lum h w thr).bit y x = (binarize lum h w (max (-1) (min 255 thr))).bit y x) ∧
  (∀ (i : Instr) (s : State), s.readyToConvert → ∃ u, exec i s = .next u ∧ u.status.word = 0x01)

/-- Rule R84: the bit is non-increasing in the threshold, and one step up changes exactly the samples equal to the new
threshold, from 1 to 0. -/
def Obligations.BinarizerIsNonIncreasingInTheThreshold : Prop :=
  ∀ (lum : Nat → Nat → Byte) (h w : Nat), ∀ y < h, ∀ x < w,
    (∀ t₁ t₂ : Int, t₁ ≤ t₂ →
      ((binarize lum h w t₂).bit y x).toNat ≤ ((binarize lum h w t₁).bit y x).toNat) ∧
    (∀ t : Int,
      (((lum y x).toNat : Int) = t + 1 →
        (binarize lum h w t).bit y x = 1 ∧ (binarize lum h w (t + 1)).bit y x = 0) ∧
      (((lum y x).toNat : Int) ≠ t + 1 →
        (binarize lum h w (t + 1)).bit y x = (binarize lum h w t).bit y x))

/-! ### Stage 2, the Scan-Order Transformer (spec/41_scan_order.md) -/

/-- Rules R90 and R96: every mode is a permutation of positions. One map of positions, which depends on the mode and the
extents only, gives every bit of the result; it stays inside the matrix, hits no position twice and leaves none out. -/
def Obligations.EachModeIsAPermutationOfPositions : Prop :=
  ∀ (mode : ScanMode) (h w : Nat), 1 ≤ h → 1 ≤ w →
    ∃ src : Nat → Nat → Nat × Nat,
      (∀ b : Matrix, b.rows = h → b.cols = w →
        (transform mode b).rows = mode.rows w h ∧ (transform mode b).cols = mode.cols w h ∧
        ∀ r < mode.rows w h, ∀ c < mode.cols w h,
          (transform mode b).bit r c = b.bit (src r c).1 (src r c).2) ∧
      (∀ r < mode.rows w h, ∀ c < mode.cols w h, (src r c).1 < h ∧ (src r c).2 < w) ∧
      (∀ r < mode.rows w h, ∀ c < mode.cols w h, ∀ r' < mode.rows w h, ∀ c' < mode.cols w h,
        src r c = src r' c' → r = r' ∧ c = c') ∧
      (∀ y < h, ∀ x < w, ∃ r < mode.rows w h, ∃ c < mode.cols w h, src r c = (y, x))

/-- Rule R98: RowSerpentine and ColumnMajor are their own inverses, and ColumnSerpentine is not: with
`B = [[1,0],[1,1]]`, once gives `[[1,1],[1,0]]` and twice `[[1,1],[0,1]]`. -/
def Obligations.RowSerpentineAndColumnMajorAreInvolutions : Prop :=
  (∀ b : Matrix, (transform .rowSerpentine (transform .rowSerpentine b)).Same b) ∧
  (∀ b : Matrix, (transform .columnMajor (transform .columnMajor b)).Same b) ∧
  (∀ b : Matrix, b.rows = 2 → b.cols = 2 → b.bit 0 0 = 1 → b.bit 0 1 = 0 → b.bit 1 0 = 1 → b.bit 1 1 = 1 →
    (transform .columnSerpentine b).Same { rows := 2, cols := 2, bit := fun r c => if r = 1 ∧ c = 1 then 0 else 1 } ∧
    (transform .columnSerpentine (transform .columnSerpentine b)).Same
      { rows := 2, cols := 2, bit := fun r c => if r = 1 ∧ c = 0 then 0 else 1 } ∧
    ¬ (transform .columnSerpentine (transform .columnSerpentine b)).Same b)

/-- Rule R99: RowMajor is the identity, ColumnSerpentine is the transpose followed by the reversal of odd rows and not
the other order; the degenerate shapes; a palindromic row is unchanged by the reversal. -/
def Obligations.ScanModesRelateAsRule99Says : Prop :=
  (∀ b : Matrix, (transform .rowMajor b).Same b) ∧
  (∀ b : Matrix, (transform .columnSerpentine b).Same (transform .rowSerpentine (transform .columnMajor b))) ∧
  (∃ b : Matrix, ¬ (transform .columnSerpentine b).Same (transform .columnMajor (transform .rowSerpentine b))) ∧
  (∀ b : Matrix, b.cols = 1 →
    (transform .rowSerpentine b).Same (transform .rowMajor b) ∧
    (transform .columnSerpentine b).Same (transform .columnMajor b)) ∧
  (∀ b : Matrix, b.rows = 1 →
    (transform .rowSerpentine b).Same (transform .rowMajor b) ∧
    (transform .columnSerpentine b).Same (transform .columnMajor b)) ∧
  (∀ (b : Matrix) (r : Nat), r < b.rows → (∀ c < b.cols, b.bit r (b.cols - 1 - c) = b.bit r c) →
    ∀ c < b.cols, (transform .rowSerpentine b).bit r c = b.bit r c)

/-! ### Stage 3, the Byte Packer (spec/42_byte_packer.md) -/

/-- Rule R109: exactly `ceil(rows/8) * cols` bytes, so `ceil(H/8) * W` for RowMajor and RowSerpentine and `ceil(W/8) * H`
for ColumnMajor and ColumnSerpentine. -/
def Obligations.PackerYieldsOneBytePerStripAndColumn : Prop :=
  (∀ m : Matrix, (pack m).length = (m.rows + 7) / 8 * m.cols) ∧
  (∀ b : Matrix,
    (pack (transform .rowMajor b)).length = (b.rows + 7) / 8 * b.cols ∧
    (pack (transform .rowSerpentine b)).length = (b.rows + 7) / 8 * b.cols ∧
    (pack (transform .columnMajor b)).length = (b.cols + 7) / 8 * b.rows ∧
    (pack (transform .columnSerpentine b)).length = (b.cols + 7) / 8 * b.rows)

/-- Rules R108, R112: the byte of strip `s` and column `c` is `out[s*cols + c]`, `out[i]` belongs to strip `i div cols`
and column `i mod cols`, and lane `b` of the byte holds `M(8s+b, c)`, 0 for a row beyond the extent. -/
def Obligations.PackedByteHoldsTheEightRowsOfItsStrip : Prop :=
  ∀ m : Matrix,
    (∀ s < (m.rows + 7) / 8, ∀ c < m.cols, ∃ byte, (pack m)[s * m.cols + c]? = some byte ∧
      ∀ b < 8, byte.getLsbD b = (decide (8 * s + b < m.rows) && decide (m.bit (8 * s + b) c = 1))) ∧
    (∀ i < (pack m).length, i / m.cols < (m.rows + 7) / 8 ∧ i % m.cols < m.cols)

/-- Rule R106: the byte is the sum of its rows' bits with the weights 1, 2, 4, … 128, the top row lowest; OR and sum are
the same. Last, the source's example: 4 white pixels above 4 black ones give 0x0f. -/
def Obligations.PackedByteIsTheWeightedSumOfItsRows : Prop :=
  (∀ (m : Matrix) (s c : Nat), s < (m.rows + 7) / 8 → c < m.cols →
    ((pack m)[s * m.cols + c]?.map BitVec.toNat) =
      some (∑ b ∈ Finset.range 8, if 8 * s + b < m.rows then (m.bit (8 * s + b) c).toNat * 2 ^ b else 0)) ∧
  (convert (fun y _ => if y < 4 then 255 else 0) 1 8 .rowMajor 127).bytes = [0x0f]

/-- Rule R107: only the last strip can be partial; it has `k` valid rows, `1 ≤ k ≤ 8`, and each of its bytes is below
`2^k`: the bits of rows at or beyond the extent are 0. What lies outside the matrix is never read. -/
def Obligations.LastStripIsPaddedWithZeros : Prop :=
  (∀ m : Matrix, 1 ≤ m.rows →
    (∀ s, s + 1 < (m.rows + 7) / 8 → 8 * s + 7 < m.rows) ∧
    1 ≤ m.rows - 8 * ((m.rows + 7) / 8 - 1) ∧ m.rows - 8 * ((m.rows + 7) / 8 - 1) ≤ 8 ∧
    ∀ c < m.cols, ∃ byte, (pack m)[((m.rows + 7) / 8 - 1) * m.cols + c]? = some byte ∧
      byte.toNat < 2 ^ (m.rows - 8 * ((m.rows + 7) / 8 - 1)) ∧
      ∀ b, m.rows - 8 * ((m.rows + 7) / 8 - 1) ≤ b → byte.getLsbD b = false) ∧
  (∀ m m' : Matrix, m.Same m' → pack m = pack m')

/-- Rule R113: from an output bit back to the pixel. Bit `b` of byte `s*cols + c` of a conversion is 1 exactly when the
sample of the pixel of the rule's table exceeds the threshold, for all four modes and all extents; and so is bit `b` of
OUT cell `k*cols + c` after `Complete`, with the pixel's sample at IMG cell `y*W + x`. (The premise `raced = []`, log 6:
the host wrote no cell of the image during BUSY, so no sample is free, rule R169.) -/
def Obligations.OutputBitIsThePixelOfTheTable : Prop :=
  (∀ (lum : Nat → Nat → Byte) (w h : Nat) (mode : ScanMode) (thr : Int) (s c b : Nat), b < 8 →
    8 * s + b < mode.rows w h → c < mode.cols w h →
    ∃ byte, (convert lum w h mode thr).bytes[s * mode.cols w h + c]? = some byte ∧
      byte.getLsbD b =
        decide (thr < ((lum (mode.pixel w h (8 * s + b) c).1 (mode.pixel w h (8 * s + b) c).2).toNat : Int))) ∧
  (∀ (s : State) (k c b : Nat), s.raced = [] → b < 8 →
    8 * k + b < s.reqMode.rows s.reqW.toNat s.reqH.toNat → c < s.reqMode.cols s.reqW.toNat s.reqH.toNat →
    (outCell (complete s) (k * s.reqMode.cols s.reqW.toNat s.reqH.toNat + c)).getLsbD b =
      decide (s.reqThr.toInt < ((imgCell s
        ((s.reqMode.pixel s.reqW.toNat s.reqH.toNat (8 * k + b) c).1 * s.reqW.toNat +
          (s.reqMode.pixel s.reqW.toNat s.reqH.toNat (8 * k + b) c).2)).toNat : Int)))

/-! ### The issue of a command and its errors (spec/43_conversion.md, spec/60_exceptions.md) -/

/-- Rule R120, all of it: the drop, the clearing, the two errors in their order, and accept, for every word and state.
(`raced` is the model's own record of rule R169, log 6, and starts empty.) -/
def Obligations.CmdWriteDoesWhatRule120Says : Prop :=
  ∀ (c : Word) (s : State),
    (s.status.busy = true → issueWord c s = .next { s with status := { s.status with ovr := true } }) ∧
    (s.status.busy = false → s.badExtents →
      issueWord c s = .next { s with
        status := { busy := false, done := false, err := true, ovr := false, errCode := 1 }
        outLen := 0, pkRows := 0, pkCols := 0, resWidth := 0, resHeight := 0 }) ∧
    (s.status.busy = false → ¬ s.badExtents → 4 ≤ (c.extractLsb' 0 15).toNat →
      issueWord c s = .next { s with
        status := { busy := false, done := false, err := true, ovr := false, errCode := 2 }
        outLen := 0, pkRows := 0, pkCols := 0, resWidth := 0, resHeight := 0 }) ∧
    (s.status.busy = false → ¬ s.badExtents → (c.extractLsb' 0 15).toNat < 4 →
      ∃ mode thr,
        issueWord c s = .next { s with
          status := { busy := true, done := false, err := false, ovr := false, errCode := 0 }
          outLen := 0, pkRows := 0, pkCols := 0, resWidth := 0, resHeight := 0
          reqW := s.width, reqH := s.height, reqMode := mode, reqThr := thr, raced := [] } ∧
        mode.number = (c.extractLsb' 0 2).toNat ∧ thr.toInt = wordThreshold c)

/-- Rule R160: in a state that is ready, every well-formed command completes its issue: the request is latched, STATUS
reads 0x01, and nothing else changes but the result registers. -/
def Obligations.ReadyCommandIsAccepted : Prop :=
  ∀ (i : Instr) (s : State), i.wf = true → s.readyToConvert →
    ∃ thr : Half, thr.toInt = effectiveThreshold i.threshold ∧
      exec i s = .next { s with
        status := { busy := true, done := false, err := false, ovr := false, errCode := 0 }
        outLen := 0, pkRows := 0, pkCols := 0, resWidth := 0, resHeight := 0
        reqW := s.width, reqH := s.height, reqMode := i.scanMode, reqThr := thr, raced := [] }

/-- Rule R142: a CMD write made while BUSY = 0 raises InvalidImageError (STATUS 0x14) exactly when an extent is 0 or the
exact product exceeds `IMG_CAP`, whatever the word and the samples. -/
def Obligations.InvalidImageErrorExactlyForBadExtents : Prop :=
  ∀ (c : Word) (s : State), s.status.busy = false →
    ∃ u, issueWord c s = .next u ∧
      (u.status.word = 0x14 ↔
        (s.width.toNat = 0 ∨ s.height.toNat = 0 ∨ s.cfg.imgCap < s.width.toNat * s.height.toNat))

/-- Rule R143: it raises UnsupportedModeError (STATUS 0x24) exactly when MODE is 4 or more and rule R142 does not apply. -/
def Obligations.UnsupportedModeErrorExactlyForUnknownModes : Prop :=
  ∀ (c : Word) (s : State), s.status.busy = false →
    ∃ u, issueWord c s = .next u ∧
      (u.status.word = 0x24 ↔ (4 ≤ (c.extractLsb' 0 15).toNat ∧ ¬ s.badExtents))

/-- Rule R146: with both causes InvalidImageError is reported, alone. -/
def Obligations.InvalidImageErrorHasPriority : Prop :=
  ∀ (c : Word) (s : State), s.status.busy = false → s.badExtents → 4 ≤ (c.extractLsb' 0 15).toNat →
    ∃ u, issueWord c s = .next u ∧ u.status.word = 0x14

/-- Rules R147, R148: the state after a refused command is the state before it with ERR and ERRCODE set, the other flags
and the result registers 0; no memory cell, no extent and no latch is touched. -/
def Obligations.ErrorEntryTouchesOnlyStatusAndResultRegisters : Prop :=
  ∀ (c : Word) (s u : State), s.status.busy = false → issueWord c s = .next u → u.status.err = true →
    (u.status.errCode = 1 ∨ u.status.errCode = 2) ∧
    u = { s with
      status := { busy := false, done := false, err := true, ovr := false, errCode := u.status.errCode }
      outLen := 0, pkRows := 0, pkCols := 0, resWidth := 0, resHeight := 0 }

/-- Rule R152: a command written during BUSY is dropped, and its only effect is OVR; OVR survives `Complete` (STATUS
0x0A) and is cleared by the next CMD write that is not dropped, and by reset. -/
def Obligations.CommandDuringBusyIsDropped : Prop :=
  (∀ (c : Word) (s : State), s.status.busy = true →
    issueWord c s = .next { s with status := { s.status with ovr := true } }) ∧
  (∀ s : State, s.status.legal → s.status.busy = true → s.status.ovr = true → nextTurn s = some .codec →
    ∃ u, step s = .next u ∧ u.status.word = 0x0A) ∧
  (∀ (c : Word) (s : State), s.status.busy = false → ∃ u, issueWord c s = .next u ∧ u.status.ovr = false) ∧
  (∀ s : State, nextTurn s = some .reset → ∃ u, step s = .next u ∧ u.status.ovr = false)

/-- Rule R150: the same word written again with WIDTH and HEIGHT unchanged (to a machine of the same capacity with
BUSY = 0, whatever else happened to it) is refused again with the same STATUS. -/
def Obligations.RefusedCommandFailsAgainTheSameWay : Prop :=
  ∀ (c : Word) (s u v : State), s.status.busy = false → issueWord c s = .next u → u.status.err = true →
    v.status.busy = false → v.cfg = u.cfg → v.width = u.width → v.height = u.height →
    ∃ w, issueWord c v = .next w ∧ w.status = u.status

/-- Rule R160: with good extents, MODE 3 or less and BUSY = 0 the command is accepted and will complete with DONE = 1,
whatever THR, TV and the samples are. ("Will": for every program inside the map and every schedule without a reset,
after at most as many steps as the schedule is long, and one more; log 7.) -/
def Obligations.CommandWithoutAnErrorWillComplete : Prop :=
  ∀ (c : Word) (s : State), s.status.busy = false → 1 ≤ s.width.toNat → 1 ≤ s.height.toNat →
    s.width.toNat * s.height.toNat ≤ s.cfg.imgCap → (c.extractLsb' 0 15).toNat ≤ 3 →
    ∃ a, issueWord c s = .next a ∧ a.status.word = 0x01 ∧
      ((∀ t ∈ s.schedule, t ≠ .reset) → (∀ op ∈ s.program, op.inMap s.cfg = true) →
        ∃ k u, k ≤ s.schedule.length + 1 ∧ runSteps k a = .next u ∧ u.status.busy = false ∧ u.status.done = true)

/-- The frame of the four commands (rules R120 to R124): whatever the issue does (accept, error, drop), the extents, every
cell of the three memories and everything outside the block keep their content; a dropped or refused command also
keeps the latches, and a dropped one the result registers. -/
def Obligations.ConversionCommandsLeaveTheRestUnchanged : Prop :=
  ∀ (i : Instr) (s u : State), exec i s = .next u →
    u.width = s.width ∧ u.height = s.height ∧ u.cfg = s.cfg ∧
    (∀ a, imgCell u a = imgCell s a ∧ binCell u a = binCell s a ∧ outCell u a = outCell s a) ∧
    u.img = s.img ∧ u.bin = s.bin ∧ u.out = s.out ∧
    u.program = s.program ∧ u.schedule = s.schedule ∧ u.replies = s.replies ∧ u.draws = s.draws ∧ u.resets = s.resets ∧
    ((s.status.busy = true ∨ u.status.busy = false) →
      u.reqW = s.reqW ∧ u.reqH = s.reqH ∧ u.reqMode = s.reqMode ∧ u.reqThr = s.reqThr) ∧
    (s.status.busy = true → u.outLen = s.outLen ∧ u.pkRows = s.pkRows ∧ u.pkCols = s.pkCols ∧
      u.resWidth = s.resWidth ∧ u.resHeight = s.resHeight ∧ u.status = { s.status with ovr := true })

/-! ### The four conversions, from the CMD write to DONE (spec/43_conversion.md) -/

/-- The form of rules R121 to R124 for the command `mk` with match value `code`: encoding; the two steps on a ready state,
with BUSY (0x01) after the first and DONE (0x02) after the second, the result registers, every bit of BIN and of OUT,
and every cell that keeps its content; InvalidImageError exactly on bad extents and never UnsupportedModeError. `rows`,
`cols` and `pixel` take the width and the height; `pixel` gives the `(y, x)` of a matrix element `(r, c)`. (The codec
moves in the second step because the schedule is empty, log 7.) -/
def Sys2Proof.Machine.ConversionRule (mk : Option Int → Instr) (code : Word) (rows cols : Nat → Nat → Nat)
    (pixel : Nat → Nat → Nat → Nat → Nat × Nat) : Prop :=
  (∀ c : Word, (∃ t, decode c = .instr (mk t)) ↔ c &&& 0x00007FFF#32 = code) ∧
  (∀ (t : Option Int) (s : State), thresholdFits t = true → s.readyToConvert → s.schedule = [] →
    ∃ a u, exec (mk t) s = .next a ∧ a.status.word = 0x01 ∧ step a = .next u ∧ u.status.word = 0x02 ∧
      u.outLen.toNat = (rows s.width.toNat s.height.toNat + 7) / 8 * cols s.width.toNat s.height.toNat ∧
      u.pkRows.toNat = rows s.width.toNat s.height.toNat ∧ u.pkCols.toNat = cols s.width.toNat s.height.toNat ∧
      u.resWidth = s.width ∧ u.resHeight = s.height ∧
      (∀ y < s.height.toNat, ∀ x < s.width.toNat,
        binCell u (y * s.width.toNat + x) =
          if effectiveThreshold t < ((imgCell s (y * s.width.toNat + x)).toNat : Int) then 1 else 0) ∧
      (∀ k < (rows s.width.toNat s.height.toNat + 7) / 8, ∀ c < cols s.width.toNat s.height.toNat, ∀ b < 8,
        (outCell u (k * cols s.width.toNat s.height.toNat + c)).getLsbD b =
          (decide (8 * k + b < rows s.width.toNat s.height.toNat) &&
            decide (binCell u ((pixel s.width.toNat s.height.toNat (8 * k + b) c).1 * s.width.toNat +
              (pixel s.width.toNat s.height.toNat (8 * k + b) c).2) = 1))) ∧
      u.img = s.img ∧ u.width = s.width ∧ u.height = s.height ∧ u.cfg = s.cfg ∧
      (∀ p, s.width.toNat * s.height.toNat ≤ p → binCell u p = binCell s p) ∧
      (∀ p, u.outLen.toNat ≤ p → outCell u p = outCell s p)) ∧
  (∀ (t : Option Int) (s : State), s.status.busy = false →
    ∃ u, exec (mk t) s = .next u ∧ (u.status.word = 0x14 ↔ s.badExtents) ∧ u.status.word ≠ 0x24)

/-- Rule R121 with log 7 (the empty schedule), `CONV.RM`: byte `s*W + c` has bit `b` = `B(8s+b, c)` for `8s+b < H`. -/
def Obligations.ConvRmConvertsInRowMajorOrder : Prop :=
  ConversionRule .convRm 0x00000000#32 (fun _ h => h) (fun w _ => w) (fun _ _ r c => (r, c))

/-- Rule R122 with log 7 (the empty schedule), `CONV.CM`: byte `s*H + c` has bit `b` = `B(c, 8s+b)` for `8s+b < W`. -/
def Obligations.ConvCmConvertsInColumnMajorOrder : Prop :=
  ConversionRule .convCm 0x00000001#32 (fun w _ => w) (fun _ h => h) (fun _ _ r c => (c, r))

/-- Rule R123 with log 7 (the empty schedule), `CONV.RS`: bit `b` is `B(8s+b, c)` for even and `B(8s+b, W-1-c)` for
odd rows. -/
def Obligations.ConvRsConvertsInRowSerpentineOrder : Prop :=
  ConversionRule .convRs 0x00000002#32 (fun _ h => h) (fun w _ => w)
    (fun w _ r c => if r % 2 = 0 then (r, c) else (r, w - 1 - c))

/-- Rule R124 with log 7 (the empty schedule), `CONV.CS`: bit `b` is `B(c, 8s+b)` for even and `B(H-1-c, 8s+b)` for odd
rows of the transpose. -/
def Obligations.ConvCsConvertsInColumnSerpentineOrder : Prop :=
  ConversionRule .convCs 0x00000003#32 (fun w _ => w) (fun _ h => h)
    (fun _ h r c => if r % 2 = 0 then (c, r) else (h - 1 - c, r))

/-- Rule R125 with logs 6 and 7: the codec moves only while BUSY = 1 and its step cannot fail. It stores the BinaryMatrix
of the samples in BIN and the packed bytes in OUT (a sample is the IMG cell's content where the host raced none, rule
R169), sets the five result registers from the latches without truncation, clears BUSY and sets DONE; OVR, ERR and
ERRCODE keep their value, and so does all other state of the block. Of the model's own fields the step empties `raced`
and counts a draw (log 6) and uses up a schedule entry (log 7). That the codec moves while BUSY = 1 when the schedule is
empty, the second clause, is the model's choice of log 7. -/
def Obligations.CompleteStoresTheConversionOfTheLatchedRequest : Prop :=
  (∀ s : State, nextTurn s = some .codec → s.status.busy = true) ∧
  (∀ s : State, s.status.busy = true → s.schedule = [] → nextTurn s = some .codec) ∧
  (∀ (s : State) (a : Nat), s.raced = [] → sample s a = imgCell s a) ∧
  (∀ s : State, nextTurn s = some .codec →
    ∃ u, step s = .next u ∧
      (∀ y < s.reqH.toNat, ∀ x < s.reqW.toNat,
        u.bin.read (y * s.reqW.toNat + x) =
          some (if s.reqThr.toInt < ((sample s (y * s.reqW.toNat + x)).toNat : Int) then 1 else 0)) ∧
      (∀ i < u.outLen.toNat, u.out.read i =
        (convert (fun y x => sample s (y * s.reqW.toNat + x)) s.reqW.toNat s.reqH.toNat s.reqMode
          s.reqThr.toInt).bytes[i]?) ∧
      u.outLen.toNat =
        (s.reqMode.rows s.reqW.toNat s.reqH.toNat + 7) / 8 * s.reqMode.cols s.reqW.toNat s.reqH.toNat ∧
      u.pkRows.toNat = s.reqMode.rows s.reqW.toNat s.reqH.toNat ∧
      u.pkCols.toNat = s.reqMode.cols s.reqW.toNat s.reqH.toNat ∧
      u = { s with
        status := { s.status with busy := false, done := true }
        bin := u.bin, out := u.out, outLen := u.outLen, pkRows := u.pkRows, pkCols := u.pkCols
        resWidth := s.reqW, resHeight := s.reqH
        raced := [], draws := s.draws + 1, schedule := s.schedule.tail })

/-- Rule R56: `Complete` writes BIN cells 0 to `W*H - 1` and OUT cells 0 to `ceil(rows/8)*cols - 1`, no other memory cell,
and not IMG; a CMD write writes no memory cell at all. -/
def Obligations.CompleteWritesExactlyTheResultCells : Prop :=
  (∀ s : State, nextTurn s = some .codec →
    ∃ u, step s = .next u ∧ u.img = s.img ∧
      (∀ a, s.reqW.toNat * s.reqH.toNat ≤ a → u.bin.read a = s.bin.read a) ∧
      (∀ a < s.reqW.toNat * s.reqH.toNat, (u.bin.read a).isSome = true) ∧
      (∀ i, (s.reqMode.rows s.reqW.toNat s.reqH.toNat + 7) / 8 * s.reqMode.cols s.reqW.toNat s.reqH.toNat ≤ i →
        u.out.read i = s.out.read i) ∧
      (∀ i < (s.reqMode.rows s.reqW.toNat s.reqH.toNat + 7) / 8 * s.reqMode.cols s.reqW.toNat s.reqH.toNat,
        (u.out.read i).isSome = true) ∧
      ((requestedConversion s).binary.binCells.map Prod.fst).Nodup ∧
      ((outCells (requestedConversion s).bytes).map Prod.fst).Nodup) ∧
  (∀ (c : Word) (s u : State), issueWord c s = .next u → u.img = s.img ∧ u.bin = s.bin ∧ u.out = s.out)

/-- Rule R2 with log 7: the outcome is a function of the image, the mode and the threshold. Two machines of the same
capacity, both with BUSY = 0, that agree on WIDTH, HEIGHT and the samples of the image and get words of the same mode and
threshold, show the same STATUS after the issue (the same error, or BUSY), and then reach DONE with the same result
registers, the same bytes and the same binary matrix, whatever earlier commands left in them, however long each
schedule delays the codec, and whatever transactions inside the map the hosts make during BUSY, but for `ImgWrite`s to
the image (`undisturbed`: no reset either; the schedules are finite lists, log 7). STATUS differs at most in OVR, which
stays 0 where no CMD write is among those transactions. -/
def Obligations.OutcomeDependsOnlyOnImageModeAndThreshold : Prop :=
  ∀ (c₁ c₂ : Word) (s₁ s₂ : State), s₁.status.busy = false → s₂.status.busy = false →
    s₁.cfg = s₂.cfg → s₁.width = s₂.width → s₁.height = s₂.height →
    (∀ a < s₁.width.toNat * s₁.height.toNat, imgCell s₁ a = imgCell s₂ a) →
    c₁.extractLsb' 0 15 = c₂.extractLsb' 0 15 → wordThreshold c₁ = wordThreshold c₂ →
    ∃ a₁ a₂, issueWord c₁ s₁ = .next a₁ ∧ issueWord c₂ s₂ = .next a₂ ∧ a₁.status = a₂.status ∧
      (a₁.status.busy = true → a₁.undisturbed → a₂.undisturbed →
        ∃ k₁ k₂ u₁ u₂, k₁ ≤ s₁.schedule.length + 1 ∧ k₂ ≤ s₂.schedule.length + 1 ∧
          State.doneAfter k₁ a₁ u₁ ∧ State.doneAfter k₂ a₂ u₂ ∧
          { u₁.status with ovr := false } = { u₂.status with ovr := false } ∧
          ((∀ c, HostOp.regWrite 0x00 c ∉ s₁.program.take s₁.schedule.length) → u₁.status.word = 0x02) ∧
          ((∀ c, HostOp.regWrite 0x00 c ∉ s₂.program.take s₂.schedule.length) → u₂.status.word = 0x02) ∧
          u₁.outLen = u₂.outLen ∧ u₁.pkRows = u₂.pkRows ∧ u₁.pkCols = u₂.pkCols ∧
          u₁.resWidth = u₂.resWidth ∧ u₁.resHeight = u₂.resHeight ∧
          (∀ i < u₁.outLen.toNat, outCell u₁ i = outCell u₂ i) ∧
          (∀ a < u₁.resWidth.toNat * u₁.resHeight.toNat, binCell u₁ a = binCell u₂ a))

/-- Rule R135: once BUSY = 1, `Complete` happens unless reset comes first. For every program inside the map and every
schedule without a reset, DONE comes after at most as many steps as the schedule is long, and one more. (That the
schedule is a finite list is the model's form of weak fairness, log 7.) -/
def Obligations.BusyEndsInDoneUnlessResetComesFirst : Prop :=
  ∀ s : State, s.status.busy = true → (∀ t ∈ s.schedule, t ≠ .reset) →
    (∀ op ∈ s.program, op.inMap s.cfg = true) →
    ∃ k u, k ≤ s.schedule.length + 1 ∧ runSteps k s = .next u ∧ u.status.busy = false ∧ u.status.done = true

/-! ### The other host transactions (spec/43_conversion.md section 4) -/

/-- Rule R128: a read at one of the nine offsets returns that register's current value (CMD reads 0, unused bits read 0),
in every phase, and no state of the block changes (`replies` is the host's, log 11). -/
def Obligations.RegisterReadReturnsTheRegister : Prop :=
  ∀ s : State,
    hostRegRead 0x00 s = .next { s with replies := .reg 0 :: s.replies } ∧
    hostRegRead 0x04 s = .next { s with replies := .reg s.status.word :: s.replies } ∧
    hostRegRead 0x08 s = .next { s with replies := .reg (s.width.setWidth 32) :: s.replies } ∧
    hostRegRead 0x0C s = .next { s with replies := .reg (s.height.setWidth 32) :: s.replies } ∧
    hostRegRead 0x10 s = .next { s with replies := .reg s.outLen :: s.replies } ∧
    hostRegRead 0x14 s = .next { s with replies := .reg (s.pkRows.setWidth 32) :: s.replies } ∧
    hostRegRead 0x18 s = .next { s with replies := .reg (s.pkCols.setWidth 32) :: s.replies } ∧
    hostRegRead 0x1C s = .next { s with replies := .reg (s.resWidth.setWidth 32) :: s.replies } ∧
    hostRegRead 0x20 s = .next { s with replies := .reg (s.resHeight.setWidth 32) :: s.replies }

/-- Rules R28, R129: a write to WIDTH or HEIGHT stores bits [15:0] and changes nothing else; a write to a read-only
register is ignored. -/
def Obligations.RegisterWriteStoresTheLowHalfOrIsIgnored : Prop :=
  ∀ (v : Word) (s : State),
    (∃ u, hostRegWrite 0x08 v s = .next u ∧ u.width.toNat = v.toNat % 65536 ∧ u = { s with width := u.width }) ∧
    (∃ u, hostRegWrite 0x0C v s = .next u ∧ u.height.toNat = v.toNat % 65536 ∧ u = { s with height := u.height }) ∧
    (∀ off ∈ [0x04, 0x10, 0x14, 0x18, 0x1C, 0x20], hostRegWrite off v s = .next s)

/-- Rules R130, R131: a sample written to a cell below `IMG_CAP` is what the cell holds and what `ImgRead` returns; every
other cell of IMG and every register and memory of the block keeps its content. -/
def Obligations.ImgReadReturnsTheLastSampleWritten : Prop :=
  ∀ (a : Nat) (v : Byte) (s : State), a < s.cfg.imgCap →
    ∃ u, hostImgWrite a v s = .next u ∧ imgCell u a = v ∧ (∀ b, b ≠ a → imgCell u b = imgCell s b) ∧
      u = { s with img := u.img, raced := u.raced } ∧ (s.status.busy = false → u.raced = s.raced) ∧
      hostImgRead a u = .next { u with replies := .cell v :: u.replies }

/-- Rules R132, R133 and R170: outside BUSY a read returns the cell's content and changes nothing in the block; during
BUSY it returns a free value of its own draw (log 5). -/
def Obligations.ResultReadsAreExactOutsideBusy : Prop :=
  ∀ (a : Nat) (s : State), a < s.cfg.imgCap →
    (s.status.busy = false →
      hostOutRead a s = .next { s with replies := .cell (outCell s a) :: s.replies } ∧
      hostBinRead a s = .next { s with replies := .bit (binCell s a) :: s.replies }) ∧
    (s.status.busy = true →
      hostOutRead a s =
        .next { s with replies := .cell (Config.busyOutByte s.draws) :: s.replies, draws := s.draws + 1 } ∧
      hostBinRead a s =
        .next { s with replies := .bit (Config.busyBinBit s.draws) :: s.replies, draws := s.draws + 1 })

/-- Rules R29, R47 with U6: a step is refused exactly when the host's transaction lies outside the map (that the model
refuses it is U6's treatment, log 12). -/
def Obligations.StepRefusesExactlyAccessesOutsideTheMap : Prop :=
  ∀ s : State,
    (∃ r, step s = .refused r) ↔
      (nextTurn s = some .host ∧ ∃ op rest, s.program = op :: rest ∧ op.inMap s.cfg = false)

/-- Rule R69: `WAIT` reads STATUS once a step and stays in the program until the value read has BUSY = 0. -/
def Obligations.WaitEndsOnlyWhenBusyReadsZero : Prop :=
  ∀ (s : State) (rest : List HostOp), s.program = .wait :: rest → nextTurn s = some .host →
    step s = .next { s with
      program := if s.status.busy then .wait :: rest else rest
      schedule := s.schedule.tail
      replies := .reg s.status.word :: s.replies }

/-! ### Hazards (spec/70_reset_and_hazards.md section 2) -/

/-- Rule R169: after any `ImgWrite`s during BUSY, the sample `Complete` reads from a cell is the value it held at accept
or one of those written to it; a cell not written gives its value; IMG itself holds the last value written; the
result registers and DONE do not depend on the writes; BIN and OUT agree on the samples taken. (`raced` empty: the
state right after accept, log 6.) -/
def Obligations.RacedSampleIsTheOldOrAWrittenValue : Prop :=
  ∀ (ws : List (Nat × Byte)) (s : State), s.status.busy = true → s.raced = [] →
    (∀ a, sample (storeSamples ws s) a = imgCell s a ∨ (a, sample (storeSamples ws s) a) ∈ ws) ∧
    (∀ a, (∀ v, (a, v) ∉ ws) →
      sample (storeSamples ws s) a = imgCell s a ∧ imgCell (storeSamples ws s) a = imgCell s a) ∧
    (∀ (a : Nat) (v : Byte), imgCell (storeSamples (ws ++ [(a, v)]) s) a = v) ∧
    (complete (storeSamples ws s)).status = (complete s).status ∧
    (complete (storeSamples ws s)).outLen = (complete s).outLen ∧
    (complete (storeSamples ws s)).pkRows = (complete s).pkRows ∧
    (complete (storeSamples ws s)).pkCols = (complete s).pkCols ∧
    (complete (storeSamples ws s)).resWidth = (complete s).resWidth ∧
    (complete (storeSamples ws s)).resHeight = (complete s).resHeight ∧
    (complete (storeSamples ws s)).outAgreesWithBin

/-- Rules R16, R54, R174: writing WIDTH or HEIGHT during BUSY, or having a command dropped, changes nothing in what the
running conversion stores and reports but the register or flag itself. -/
def Obligations.RunningConversionUsesItsLatches : Prop :=
  ∀ (v : Word) (s : State),
    complete (setWidth v s) = { complete s with width := v.setWidth 16 } ∧
    complete (setHeight v s) = { complete s with height := v.setWidth 16 } ∧
    complete (dropCommand s) = { complete s with status := { (complete s).status with ovr := true } }

/-- Rules R168 to R173: a read of OUT or BIN that runs into no hazard returns a byte or bit that a conversion wrote. -/
def Obligations.HazardFreeReadReturnsAWrittenResult : Prop :=
  ∀ (a : Nat) (s : State), s.Inv → a < s.cfg.imgCap →
    (s.hazardFree (.outRead a) = true →
      ∃ v, s.out.read a = some v ∧ hostOutRead a s = .next { s with replies := .cell v :: s.replies }) ∧
    (s.hazardFree (.binRead a) = true →
      ∃ v, s.bin.read a = some v ∧ hostBinRead a s = .next { s with replies := .bit v :: s.replies })

/-- Rule R172 with log 3: the hazard of an unwritten image arises at exactly the CMD writes made while BUSY = 0 that start
a conversion one of whose samples has not been written since reset, and so at no refused command. A CMD write that runs
into no hazard, if it starts a conversion, starts one whose every sample is a value the host wrote. -/
def Obligations.UnwrittenImageHazardIsThatOfAConversion : Prop :=
  ∀ (c : Word) (s : State),
    (Hazard.imageNotWritten.arises s (.regWrite 0x00 c) = true ↔
      s.status.busy = false ∧ ∃ u, issueWord c s = .next u ∧ u.status.busy = true ∧
        ∃ a < u.reqW.toNat * u.reqH.toNat, u.img.read a = none) ∧
    (s.hazardFree (.regWrite 0x00 c) = true →
      ∀ u, issueWord c s = .next u → u.status.busy = true → ∀ a < u.reqW.toNat * u.reqH.toNat,
        ∃ v, s.img.read a = some v ∧ sample u a = v)

/-! ### The whole machine -/

/-- Rule R30: after reset every register reads 0, the phase is IDLE, and no memory cell has been written. -/
def Obligations.RegistersReadZeroAfterReset : Prop :=
  (∀ r : Reg, readReg State.reset r = 0) ∧ State.reset.status.phase = .idle ∧
  State.reset.img = [] ∧ State.reset.bin = [] ∧ State.reset.out = []

/-- Rule R165: reset can occur in any state, and puts every register at 0, abandons the conversion, and leaves every cell
of IMG, BIN and OUT unspecified, under the number of this reset and no earlier one (logs 2 and 10). -/
def Obligations.ResetEventClearsTheBlockInAnyState : Prop :=
  ∀ (s : State) (rest : List Turn), s.schedule = .reset :: rest →
    ∃ u, step s = .next u ∧ (∀ r : Reg, readReg u r = 0) ∧ u.status.phase = .idle ∧
      (∀ a, imgCell u a = Config.resetSample (s.resets + 1) a ∧ binCell u a = Config.resetBinBit (s.resets + 1) a ∧
        outCell u a = Config.resetOutByte (s.resets + 1) a) ∧
      u.resets = s.resets + 1 ∧ u.cfg = s.cfg ∧ u.program = s.program ∧ u.replies = s.replies ∧ u.schedule = rest

/-- Rule R15: in every state that meets the invariant a host reads one of seven values from STATUS. -/
def Obligations.StatusReadsOneOfSevenValues : Prop :=
  ∀ s : State, s.Inv → readReg s .status ∈ [0x00#32, 0x01#32, 0x09#32, 0x02#32, 0x0A#32, 0x14#32, 0x24#32]

/-- Rules R18 to R22, R51: during BUSY the STATUS read is 0x01 or 0x09 and the result registers read 0. -/
def Obligations.RegisterReadsAreExactDuringBusy : Prop :=
  ∀ s : State, s.Inv → s.status.busy = true →
    readReg s .status ∈ [0x01#32, 0x09#32] ∧
    ∀ r ∈ [Reg.outLen, .pkRows, .pkCols, .resWidth, .resHeight], readReg s r = 0

/-- Rule R12: the transitions of the phase. IDLE, DONE and ERR go to BUSY or ERR on a CMD write, BUSY goes to DONE on
`Complete`, every phase goes to IDLE on reset, and there is no other transition. -/
def Obligations.PhaseChangesOnlyAsRule12Allows : Prop :=
  ∀ s u : State, s.Inv → step s = .next u →
    u.status.phase = s.status.phase ∨
    (s.status.phase ≠ .busy ∧ (u.status.phase = .busy ∨ u.status.phase = .err) ∧ nextTurn s = some .host ∧
      ∃ c rest, s.program = .regWrite 0x00 c :: rest) ∨
    (s.status.phase = .busy ∧ u.status.phase = .done ∧ nextTurn s = some .codec) ∨
    (u.status.phase = .idle ∧ nextTurn s = some .reset)

/-- Rules R16, R17, R24, R23: but for reset, WIDTH, HEIGHT and IMG change only by the host's own write to them and the
latches only at accept; the capacity never changes. -/
def Obligations.InputsChangeOnlyByTheHostsWrites : Prop :=
  ∀ s u : State, step s = .next u →
    u.cfg = s.cfg ∧
    (nextTurn s ≠ some .reset →
      (u.width ≠ s.width → nextTurn s = some .host ∧ ∃ v rest, s.program = .regWrite 0x08 v :: rest ∧ u.width = v.setWidth 16) ∧
      (u.height ≠ s.height → nextTurn s = some .host ∧ ∃ v rest, s.program = .regWrite 0x0C v :: rest ∧ u.height = v.setWidth 16) ∧
      (u.img ≠ s.img → nextTurn s = some .host ∧ ∃ a v rest, s.program = .imgWrite a v :: rest ∧ u.img = s.img.write a v) ∧
      ((u.reqW ≠ s.reqW ∨ u.reqH ≠ s.reqH ∨ u.reqMode ≠ s.reqMode ∨ u.reqThr ≠ s.reqThr) →
        nextTurn s = some .host ∧ s.status.busy = false ∧ u.status.busy = true ∧
          ∃ c rest, s.program = .regWrite 0x00 c :: rest))

/-- Rules R25, R26, R57: but for reset, BIN and OUT change only by `Complete`. -/
def Obligations.OnlyCompleteWritesBinAndOut : Prop :=
  ∀ s u : State, step s = .next u → nextTurn s ≠ some .reset → nextTurn s ≠ some .codec → u.bin = s.bin ∧ u.out = s.out

/-- Rule R149: the error indication stays until a CMD write or a reset. -/
def Obligations.ErrorStaysUntilTheNextCommand : Prop :=
  ∀ s u : State, s.status.phase = .err → step s = .next u → nextTurn s ≠ some .reset →
    (∀ c rest, s.program ≠ .regWrite 0x00 c :: rest) → u.status = s.status

/-- Rules R126, R130, R134: in phase DONE the result stays as it is until a CMD write or a reset. -/
def Obligations.ResultStaysReadableUntilTheNextCommand : Prop :=
  ∀ s u : State, s.status.phase = .done → step s = .next u → nextTurn s ≠ some .reset →
    (∀ c rest, s.program ≠ .regWrite 0x00 c :: rest) →
    u.status = s.status ∧ u.outLen = s.outLen ∧ u.pkRows = s.pkRows ∧ u.pkCols = s.pkCols ∧
      u.resWidth = s.resWidth ∧ u.resHeight = s.resHeight ∧ u.bin = s.bin ∧ u.out = s.out

/-- Reset meets the invariant (the capacity is the suggested one, log 1). -/
def Obligations.ResetMeetsTheInvariant : Prop := State.reset.Inv

/-- Every step keeps the invariant: STATUS legal (rule R15), the result registers 0 or a true description of a written
result (rules R18 to R22, R25, R26), a latched request valid (rule R145), memories canonical and below the capacity. -/
def Obligations.StepKeepsTheInvariant : Prop :=
  ∀ s u : State, s.Inv → step s = .next u → u.Inv

/-- Rules R126, R169: every step keeps OUT in agreement with BIN: in DONE the bytes are what one of the four modes makes of
the very matrix that BIN holds. -/
def Obligations.StepKeepsOutInAgreementWithBin : Prop :=
  ∀ s u : State, s.Inv → s.outAgreesWithBin → step s = .next u → u.outAgreesWithBin
end

