-- ==== Sys2Proof/Laws/State.lean ====
section
/-! SUPPORT. One lemma per field and update of State: what each named update leaves in each field. -/

namespace Sys2Proof.Machine

/-! ### setWidth -/

@[simp] theorem setWidth_cfg (v : Word) (s : State) : (setWidth v s).cfg = s.cfg := rfl
@[simp] theorem setWidth_status (v : Word) (s : State) : (setWidth v s).status = s.status := rfl
@[simp] theorem setWidth_width (v : Word) (s : State) : (setWidth v s).width = lowHalf v := rfl
@[simp] theorem setWidth_height (v : Word) (s : State) : (setWidth v s).height = s.height := rfl
@[simp] theorem setWidth_outLen (v : Word) (s : State) : (setWidth v s).outLen = s.outLen := rfl
@[simp] theorem setWidth_pkRows (v : Word) (s : State) : (setWidth v s).pkRows = s.pkRows := rfl
@[simp] theorem setWidth_pkCols (v : Word) (s : State) : (setWidth v s).pkCols = s.pkCols := rfl
@[simp] theorem setWidth_resWidth (v : Word) (s : State) : (setWidth v s).resWidth = s.resWidth := rfl
@[simp] theorem setWidth_resHeight (v : Word) (s : State) : (setWidth v s).resHeight = s.resHeight := rfl
@[simp] theorem setWidth_reqW (v : Word) (s : State) : (setWidth v s).reqW = s.reqW := rfl
@[simp] theorem setWidth_reqH (v : Word) (s : State) : (setWidth v s).reqH = s.reqH := rfl
@[simp] theorem setWidth_reqMode (v : Word) (s : State) : (setWidth v s).reqMode = s.reqMode := rfl
@[simp] theorem setWidth_reqThr (v : Word) (s : State) : (setWidth v s).reqThr = s.reqThr := rfl
@[simp] theorem setWidth_img (v : Word) (s : State) : (setWidth v s).img = s.img := rfl
@[simp] theorem setWidth_bin (v : Word) (s : State) : (setWidth v s).bin = s.bin := rfl
@[simp] theorem setWidth_out (v : Word) (s : State) : (setWidth v s).out = s.out := rfl
@[simp] theorem setWidth_raced (v : Word) (s : State) : (setWidth v s).raced = s.raced := rfl
@[simp] theorem setWidth_program (v : Word) (s : State) : (setWidth v s).program = s.program := rfl
@[simp] theorem setWidth_schedule (v : Word) (s : State) : (setWidth v s).schedule = s.schedule := rfl
@[simp] theorem setWidth_replies (v : Word) (s : State) : (setWidth v s).replies = s.replies := rfl
@[simp] theorem setWidth_draws (v : Word) (s : State) : (setWidth v s).draws = s.draws := rfl
@[simp] theorem setWidth_resets (v : Word) (s : State) : (setWidth v s).resets = s.resets := rfl

/-! ### setHeight -/

@[simp] theorem setHeight_cfg (v : Word) (s : State) : (setHeight v s).cfg = s.cfg := rfl
@[simp] theorem setHeight_status (v : Word) (s : State) : (setHeight v s).status = s.status := rfl
@[simp] theorem setHeight_width (v : Word) (s : State) : (setHeight v s).width = s.width := rfl
@[simp] theorem setHeight_height (v : Word) (s : State) : (setHeight v s).height = lowHalf v := rfl
@[simp] theorem setHeight_outLen (v : Word) (s : State) : (setHeight v s).outLen = s.outLen := rfl
@[simp] theorem setHeight_pkRows (v : Word) (s : State) : (setHeight v s).pkRows = s.pkRows := rfl
@[simp] theorem setHeight_pkCols (v : Word) (s : State) : (setHeight v s).pkCols = s.pkCols := rfl
@[simp] theorem setHeight_resWidth (v : Word) (s : State) : (setHeight v s).resWidth = s.resWidth := rfl
@[simp] theorem setHeight_resHeight (v : Word) (s : State) : (setHeight v s).resHeight = s.resHeight := rfl
@[simp] theorem setHeight_reqW (v : Word) (s : State) : (setHeight v s).reqW = s.reqW := rfl
@[simp] theorem setHeight_reqH (v : Word) (s : State) : (setHeight v s).reqH = s.reqH := rfl
@[simp] theorem setHeight_reqMode (v : Word) (s : State) : (setHeight v s).reqMode = s.reqMode := rfl
@[simp] theorem setHeight_reqThr (v : Word) (s : State) : (setHeight v s).reqThr = s.reqThr := rfl
@[simp] theorem setHeight_img (v : Word) (s : State) : (setHeight v s).img = s.img := rfl
@[simp] theorem setHeight_bin (v : Word) (s : State) : (setHeight v s).bin = s.bin := rfl
@[simp] theorem setHeight_out (v : Word) (s : State) : (setHeight v s).out = s.out := rfl
@[simp] theorem setHeight_raced (v : Word) (s : State) : (setHeight v s).raced = s.raced := rfl
@[simp] theorem setHeight_program (v : Word) (s : State) : (setHeight v s).program = s.program := rfl
@[simp] theorem setHeight_schedule (v : Word) (s : State) : (setHeight v s).schedule = s.schedule := rfl
@[simp] theorem setHeight_replies (v : Word) (s : State) : (setHeight v s).replies = s.replies := rfl
@[simp] theorem setHeight_draws (v : Word) (s : State) : (setHeight v s).draws = s.draws := rfl
@[simp] theorem setHeight_resets (v : Word) (s : State) : (setHeight v s).resets = s.resets := rfl

/-! ### answer -/

@[simp] theorem answer_cfg (r : Reply) (s : State) : (answer r s).cfg = s.cfg := rfl
@[simp] theorem answer_status (r : Reply) (s : State) : (answer r s).status = s.status := rfl
@[simp] theorem answer_width (r : Reply) (s : State) : (answer r s).width = s.width := rfl
@[simp] theorem answer_height (r : Reply) (s : State) : (answer r s).height = s.height := rfl
@[simp] theorem answer_outLen (r : Reply) (s : State) : (answer r s).outLen = s.outLen := rfl
@[simp] theorem answer_pkRows (r : Reply) (s : State) : (answer r s).pkRows = s.pkRows := rfl
@[simp] theorem answer_pkCols (r : Reply) (s : State) : (answer r s).pkCols = s.pkCols := rfl
@[simp] theorem answer_resWidth (r : Reply) (s : State) : (answer r s).resWidth = s.resWidth := rfl
@[simp] theorem answer_resHeight (r : Reply) (s : State) : (answer r s).resHeight = s.resHeight := rfl
@[simp] theorem answer_reqW (r : Reply) (s : State) : (answer r s).reqW = s.reqW := rfl
@[simp] theorem answer_reqH (r : Reply) (s : State) : (answer r s).reqH = s.reqH := rfl
@[simp] theorem answer_reqMode (r : Reply) (s : State) : (answer r s).reqMode = s.reqMode := rfl
@[simp] theorem answer_reqThr (r : Reply) (s : State) : (answer r s).reqThr = s.reqThr := rfl
@[simp] theorem answer_img (r : Reply) (s : State) : (answer r s).img = s.img := rfl
@[simp] theorem answer_bin (r : Reply) (s : State) : (answer r s).bin = s.bin := rfl
@[simp] theorem answer_out (r : Reply) (s : State) : (answer r s).out = s.out := rfl
@[simp] theorem answer_raced (r : Reply) (s : State) : (answer r s).raced = s.raced := rfl
@[simp] theorem answer_program (r : Reply) (s : State) : (answer r s).program = s.program := rfl
@[simp] theorem answer_schedule (r : Reply) (s : State) : (answer r s).schedule = s.schedule := rfl
@[simp] theorem answer_replies (r : Reply) (s : State) : (answer r s).replies = r :: s.replies := rfl
@[simp] theorem answer_draws (r : Reply) (s : State) : (answer r s).draws = s.draws := rfl
@[simp] theorem answer_resets (r : Reply) (s : State) : (answer r s).resets = s.resets := rfl

/-! ### setProgram -/

@[simp] theorem setProgram_cfg (lines : List HostOp) (s : State) : (setProgram lines s).cfg = s.cfg := rfl
@[simp] theorem setProgram_status (lines : List HostOp) (s : State) : (setProgram lines s).status = s.status := rfl
@[simp] theorem setProgram_width (lines : List HostOp) (s : State) : (setProgram lines s).width = s.width := rfl
@[simp] theorem setProgram_height (lines : List HostOp) (s : State) : (setProgram lines s).height = s.height := rfl
@[simp] theorem setProgram_outLen (lines : List HostOp) (s : State) : (setProgram lines s).outLen = s.outLen := rfl
@[simp] theorem setProgram_pkRows (lines : List HostOp) (s : State) : (setProgram lines s).pkRows = s.pkRows := rfl
@[simp] theorem setProgram_pkCols (lines : List HostOp) (s : State) : (setProgram lines s).pkCols = s.pkCols := rfl
@[simp] theorem setProgram_resWidth (lines : List HostOp) (s : State) : (setProgram lines s).resWidth = s.resWidth := rfl
@[simp] theorem setProgram_resHeight (lines : List HostOp) (s : State) : (setProgram lines s).resHeight = s.resHeight := rfl
@[simp] theorem setProgram_reqW (lines : List HostOp) (s : State) : (setProgram lines s).reqW = s.reqW := rfl
@[simp] theorem setProgram_reqH (lines : List HostOp) (s : State) : (setProgram lines s).reqH = s.reqH := rfl
@[simp] theorem setProgram_reqMode (lines : List HostOp) (s : State) : (setProgram lines s).reqMode = s.reqMode := rfl
@[simp] theorem setProgram_reqThr (lines : List HostOp) (s : State) : (setProgram lines s).reqThr = s.reqThr := rfl
@[simp] theorem setProgram_img (lines : List HostOp) (s : State) : (setProgram lines s).img = s.img := rfl
@[simp] theorem setProgram_bin (lines : List HostOp) (s : State) : (setProgram lines s).bin = s.bin := rfl
@[simp] theorem setProgram_out (lines : List HostOp) (s : State) : (setProgram lines s).out = s.out := rfl
@[simp] theorem setProgram_raced (lines : List HostOp) (s : State) : (setProgram lines s).raced = s.raced := rfl
@[simp] theorem setProgram_program (lines : List HostOp) (s : State) : (setProgram lines s).program = lines := rfl
@[simp] theorem setProgram_schedule (lines : List HostOp) (s : State) : (setProgram lines s).schedule = s.schedule := rfl
@[simp] theorem setProgram_replies (lines : List HostOp) (s : State) : (setProgram lines s).replies = s.replies := rfl
@[simp] theorem setProgram_draws (lines : List HostOp) (s : State) : (setProgram lines s).draws = s.draws := rfl
@[simp] theorem setProgram_resets (lines : List HostOp) (s : State) : (setProgram lines s).resets = s.resets := rfl

/-! ### drawn -/

@[simp] theorem drawn_cfg (s : State) : (drawn s).cfg = s.cfg := rfl
@[simp] theorem drawn_status (s : State) : (drawn s).status = s.status := rfl
@[simp] theorem drawn_width (s : State) : (drawn s).width = s.width := rfl
@[simp] theorem drawn_height (s : State) : (drawn s).height = s.height := rfl
@[simp] theorem drawn_outLen (s : State) : (drawn s).outLen = s.outLen := rfl
@[simp] theorem drawn_pkRows (s : State) : (drawn s).pkRows = s.pkRows := rfl
@[simp] theorem drawn_pkCols (s : State) : (drawn s).pkCols = s.pkCols := rfl
@[simp] theorem drawn_resWidth (s : State) : (drawn s).resWidth = s.resWidth := rfl
@[simp] theorem drawn_resHeight (s : State) : (drawn s).resHeight = s.resHeight := rfl
@[simp] theorem drawn_reqW (s : State) : (drawn s).reqW = s.reqW := rfl
@[simp] theorem drawn_reqH (s : State) : (drawn s).reqH = s.reqH := rfl
@[simp] theorem drawn_reqMode (s : State) : (drawn s).reqMode = s.reqMode := rfl
@[simp] theorem drawn_reqThr (s : State) : (drawn s).reqThr = s.reqThr := rfl
@[simp] theorem drawn_img (s : State) : (drawn s).img = s.img := rfl
@[simp] theorem drawn_bin (s : State) : (drawn s).bin = s.bin := rfl
@[simp] theorem drawn_out (s : State) : (drawn s).out = s.out := rfl
@[simp] theorem drawn_raced (s : State) : (drawn s).raced = s.raced := rfl
@[simp] theorem drawn_program (s : State) : (drawn s).program = s.program := rfl
@[simp] theorem drawn_schedule (s : State) : (drawn s).schedule = s.schedule := rfl
@[simp] theorem drawn_replies (s : State) : (drawn s).replies = s.replies := rfl
@[simp] theorem drawn_draws (s : State) : (drawn s).draws = s.draws + 1 := rfl
@[simp] theorem drawn_resets (s : State) : (drawn s).resets = s.resets := rfl

/-! ### takeTurn -/

@[simp] theorem takeTurn_cfg (s : State) : (takeTurn s).cfg = s.cfg := rfl
@[simp] theorem takeTurn_status (s : State) : (takeTurn s).status = s.status := rfl
@[simp] theorem takeTurn_width (s : State) : (takeTurn s).width = s.width := rfl
@[simp] theorem takeTurn_height (s : State) : (takeTurn s).height = s.height := rfl
@[simp] theorem takeTurn_outLen (s : State) : (takeTurn s).outLen = s.outLen := rfl
@[simp] theorem takeTurn_pkRows (s : State) : (takeTurn s).pkRows = s.pkRows := rfl
@[simp] theorem takeTurn_pkCols (s : State) : (takeTurn s).pkCols = s.pkCols := rfl
@[simp] theorem takeTurn_resWidth (s : State) : (takeTurn s).resWidth = s.resWidth := rfl
@[simp] theorem takeTurn_resHeight (s : State) : (takeTurn s).resHeight = s.resHeight := rfl
@[simp] theorem takeTurn_reqW (s : State) : (takeTurn s).reqW = s.reqW := rfl
@[simp] theorem takeTurn_reqH (s : State) : (takeTurn s).reqH = s.reqH := rfl
@[simp] theorem takeTurn_reqMode (s : State) : (takeTurn s).reqMode = s.reqMode := rfl
@[simp] theorem takeTurn_reqThr (s : State) : (takeTurn s).reqThr = s.reqThr := rfl
@[simp] theorem takeTurn_img (s : State) : (takeTurn s).img = s.img := rfl
@[simp] theorem takeTurn_bin (s : State) : (takeTurn s).bin = s.bin := rfl
@[simp] theorem takeTurn_out (s : State) : (takeTurn s).out = s.out := rfl
@[simp] theorem takeTurn_raced (s : State) : (takeTurn s).raced = s.raced := rfl
@[simp] theorem takeTurn_program (s : State) : (takeTurn s).program = s.program := rfl
@[simp] theorem takeTurn_schedule (s : State) : (takeTurn s).schedule = s.schedule.tail := rfl
@[simp] theorem takeTurn_replies (s : State) : (takeTurn s).replies = s.replies := rfl
@[simp] theorem takeTurn_draws (s : State) : (takeTurn s).draws = s.draws := rfl
@[simp] theorem takeTurn_resets (s : State) : (takeTurn s).resets = s.resets := rfl

/-! ### storeSample -/

@[simp] theorem storeSample_cfg (a : Nat) (v : Byte) (s : State) : (storeSample a v s).cfg = s.cfg := rfl
@[simp] theorem storeSample_status (a : Nat) (v : Byte) (s : State) : (storeSample a v s).status = s.status := rfl
@[simp] theorem storeSample_width (a : Nat) (v : Byte) (s : State) : (storeSample a v s).width = s.width := rfl
@[simp] theorem storeSample_height (a : Nat) (v : Byte) (s : State) : (storeSample a v s).height = s.height := rfl
@[simp] theorem storeSample_outLen (a : Nat) (v : Byte) (s : State) : (storeSample a v s).outLen = s.outLen := rfl
@[simp] theorem storeSample_pkRows (a : Nat) (v : Byte) (s : State) : (storeSample a v s).pkRows = s.pkRows := rfl
@[simp] theorem storeSample_pkCols (a : Nat) (v : Byte) (s : State) : (storeSample a v s).pkCols = s.pkCols := rfl
@[simp] theorem storeSample_resWidth (a : Nat) (v : Byte) (s : State) : (storeSample a v s).resWidth = s.resWidth := rfl
@[simp] theorem storeSample_resHeight (a : Nat) (v : Byte) (s : State) : (storeSample a v s).resHeight = s.resHeight := rfl
@[simp] theorem storeSample_reqW (a : Nat) (v : Byte) (s : State) : (storeSample a v s).reqW = s.reqW := rfl
@[simp] theorem storeSample_reqH (a : Nat) (v : Byte) (s : State) : (storeSample a v s).reqH = s.reqH := rfl
@[simp] theorem storeSample_reqMode (a : Nat) (v : Byte) (s : State) : (storeSample a v s).reqMode = s.reqMode := rfl
@[simp] theorem storeSample_reqThr (a : Nat) (v : Byte) (s : State) : (storeSample a v s).reqThr = s.reqThr := rfl
@[simp] theorem storeSample_img (a : Nat) (v : Byte) (s : State) : (storeSample a v s).img = s.img.write a v := rfl
@[simp] theorem storeSample_bin (a : Nat) (v : Byte) (s : State) : (storeSample a v s).bin = s.bin := rfl
@[simp] theorem storeSample_out (a : Nat) (v : Byte) (s : State) : (storeSample a v s).out = s.out := rfl
@[simp] theorem storeSample_raced (a : Nat) (v : Byte) (s : State) : (storeSample a v s).raced = racedAfterWrite s a := rfl
@[simp] theorem storeSample_program (a : Nat) (v : Byte) (s : State) : (storeSample a v s).program = s.program := rfl
@[simp] theorem storeSample_schedule (a : Nat) (v : Byte) (s : State) : (storeSample a v s).schedule = s.schedule := rfl
@[simp] theorem storeSample_replies (a : Nat) (v : Byte) (s : State) : (storeSample a v s).replies = s.replies := rfl
@[simp] theorem storeSample_draws (a : Nat) (v : Byte) (s : State) : (storeSample a v s).draws = s.draws := rfl
@[simp] theorem storeSample_resets (a : Nat) (v : Byte) (s : State) : (storeSample a v s).resets = s.resets := rfl

/-! ### dropCommand -/

@[simp] theorem dropCommand_cfg (s : State) : (dropCommand s).cfg = s.cfg := rfl
@[simp] theorem dropCommand_status (s : State) : (dropCommand s).status = s.status.dropped := rfl
@[simp] theorem dropCommand_width (s : State) : (dropCommand s).width = s.width := rfl
@[simp] theorem dropCommand_height (s : State) : (dropCommand s).height = s.height := rfl
@[simp] theorem dropCommand_outLen (s : State) : (dropCommand s).outLen = s.outLen := rfl
@[simp] theorem dropCommand_pkRows (s : State) : (dropCommand s).pkRows = s.pkRows := rfl
@[simp] theorem dropCommand_pkCols (s : State) : (dropCommand s).pkCols = s.pkCols := rfl
@[simp] theorem dropCommand_resWidth (s : State) : (dropCommand s).resWidth = s.resWidth := rfl
@[simp] theorem dropCommand_resHeight (s : State) : (dropCommand s).resHeight = s.resHeight := rfl
@[simp] theorem dropCommand_reqW (s : State) : (dropCommand s).reqW = s.reqW := rfl
@[simp] theorem dropCommand_reqH (s : State) : (dropCommand s).reqH = s.reqH := rfl
@[simp] theorem dropCommand_reqMode (s : State) : (dropCommand s).reqMode = s.reqMode := rfl
@[simp] theorem dropCommand_reqThr (s : State) : (dropCommand s).reqThr = s.reqThr := rfl
@[simp] theorem dropCommand_img (s : State) : (dropCommand s).img = s.img := rfl
@[simp] theorem dropCommand_bin (s : State) : (dropCommand s).bin = s.bin := rfl
@[simp] theorem dropCommand_out (s : State) : (dropCommand s).out = s.out := rfl
@[simp] theorem dropCommand_raced (s : State) : (dropCommand s).raced = s.raced := rfl
@[simp] theorem dropCommand_program (s : State) : (dropCommand s).program = s.program := rfl
@[simp] theorem dropCommand_schedule (s : State) : (dropCommand s).schedule = s.schedule := rfl
@[simp] theorem dropCommand_replies (s : State) : (dropCommand s).replies = s.replies := rfl
@[simp] theorem dropCommand_draws (s : State) : (dropCommand s).draws = s.draws := rfl
@[simp] theorem dropCommand_resets (s : State) : (dropCommand s).resets = s.resets := rfl

/-! ### clearOutcome -/

@[simp] theorem clearOutcome_cfg (s : State) : (clearOutcome s).cfg = s.cfg := rfl
@[simp] theorem clearOutcome_status (s : State) : (clearOutcome s).status = s.status.cleared := rfl
@[simp] theorem clearOutcome_width (s : State) : (clearOutcome s).width = s.width := rfl
@[simp] theorem clearOutcome_height (s : State) : (clearOutcome s).height = s.height := rfl
@[simp] theorem clearOutcome_outLen (s : State) : (clearOutcome s).outLen = 0 := rfl
@[simp] theorem clearOutcome_pkRows (s : State) : (clearOutcome s).pkRows = 0 := rfl
@[simp] theorem clearOutcome_pkCols (s : State) : (clearOutcome s).pkCols = 0 := rfl
@[simp] theorem clearOutcome_resWidth (s : State) : (clearOutcome s).resWidth = 0 := rfl
@[simp] theorem clearOutcome_resHeight (s : State) : (clearOutcome s).resHeight = 0 := rfl
@[simp] theorem clearOutcome_reqW (s : State) : (clearOutcome s).reqW = s.reqW := rfl
@[simp] theorem clearOutcome_reqH (s : State) : (clearOutcome s).reqH = s.reqH := rfl
@[simp] theorem clearOutcome_reqMode (s : State) : (clearOutcome s).reqMode = s.reqMode := rfl
@[simp] theorem clearOutcome_reqThr (s : State) : (clearOutcome s).reqThr = s.reqThr := rfl
@[simp] theorem clearOutcome_img (s : State) : (clearOutcome s).img = s.img := rfl
@[simp] theorem clearOutcome_bin (s : State) : (clearOutcome s).bin = s.bin := rfl
@[simp] theorem clearOutcome_out (s : State) : (clearOutcome s).out = s.out := rfl
@[simp] theorem clearOutcome_raced (s : State) : (clearOutcome s).raced = s.raced := rfl
@[simp] theorem clearOutcome_program (s : State) : (clearOutcome s).program = s.program := rfl
@[simp] theorem clearOutcome_schedule (s : State) : (clearOutcome s).schedule = s.schedule := rfl
@[simp] theorem clearOutcome_replies (s : State) : (clearOutcome s).replies = s.replies := rfl
@[simp] theorem clearOutcome_draws (s : State) : (clearOutcome s).draws = s.draws := rfl
@[simp] theorem clearOutcome_resets (s : State) : (clearOutcome s).resets = s.resets := rfl

/-! ### raiseError -/

@[simp] theorem raiseError_cfg (e : CommandError) (s : State) : (raiseError e s).cfg = s.cfg := rfl
@[simp] theorem raiseError_status (e : CommandError) (s : State) : (raiseError e s).status = s.status.errored e := rfl
@[simp] theorem raiseError_width (e : CommandError) (s : State) : (raiseError e s).width = s.width := rfl
@[simp] theorem raiseError_height (e : CommandError) (s : State) : (raiseError e s).height = s.height := rfl
@[simp] theorem raiseError_outLen (e : CommandError) (s : State) : (raiseError e s).outLen = s.outLen := rfl
@[simp] theorem raiseError_pkRows (e : CommandError) (s : State) : (raiseError e s).pkRows = s.pkRows := rfl
@[simp] theorem raiseError_pkCols (e : CommandError) (s : State) : (raiseError e s).pkCols = s.pkCols := rfl
@[simp] theorem raiseError_resWidth (e : CommandError) (s : State) : (raiseError e s).resWidth = s.resWidth := rfl
@[simp] theorem raiseError_resHeight (e : CommandError) (s : State) : (raiseError e s).resHeight = s.resHeight := rfl
@[simp] theorem raiseError_reqW (e : CommandError) (s : State) : (raiseError e s).reqW = s.reqW := rfl
@[simp] theorem raiseError_reqH (e : CommandError) (s : State) : (raiseError e s).reqH = s.reqH := rfl
@[simp] theorem raiseError_reqMode (e : CommandError) (s : State) : (raiseError e s).reqMode = s.reqMode := rfl
@[simp] theorem raiseError_reqThr (e : CommandError) (s : State) : (raiseError e s).reqThr = s.reqThr := rfl
@[simp] theorem raiseError_img (e : CommandError) (s : State) : (raiseError e s).img = s.img := rfl
@[simp] theorem raiseError_bin (e : CommandError) (s : State) : (raiseError e s).bin = s.bin := rfl
@[simp] theorem raiseError_out (e : CommandError) (s : State) : (raiseError e s).out = s.out := rfl
@[simp] theorem raiseError_raced (e : CommandError) (s : State) : (raiseError e s).raced = s.raced := rfl
@[simp] theorem raiseError_program (e : CommandError) (s : State) : (raiseError e s).program = s.program := rfl
@[simp] theorem raiseError_schedule (e : CommandError) (s : State) : (raiseError e s).schedule = s.schedule := rfl
@[simp] theorem raiseError_replies (e : CommandError) (s : State) : (raiseError e s).replies = s.replies := rfl
@[simp] theorem raiseError_draws (e : CommandError) (s : State) : (raiseError e s).draws = s.draws := rfl
@[simp] theorem raiseError_resets (e : CommandError) (s : State) : (raiseError e s).resets = s.resets := rfl

/-! ### acceptRequest -/

@[simp] theorem acceptRequest_cfg (mode : ScanMode) (thr : Half) (s : State) : (acceptRequest mode thr s).cfg = s.cfg := rfl
@[simp] theorem acceptRequest_status (mode : ScanMode) (thr : Half) (s : State) : (acceptRequest mode thr s).status = s.status.accepted := rfl
@[simp] theorem acceptRequest_width (mode : ScanMode) (thr : Half) (s : State) : (acceptRequest mode thr s).width = s.width := rfl
@[simp] theorem acceptRequest_height (mode : ScanMode) (thr : Half) (s : State) : (acceptRequest mode thr s).height = s.height := rfl
@[simp] theorem acceptRequest_outLen (mode : ScanMode) (thr : Half) (s : State) : (acceptRequest mode thr s).outLen = s.outLen := rfl
@[simp] theorem acceptRequest_pkRows (mode : ScanMode) (thr : Half) (s : State) : (acceptRequest mode thr s).pkRows = s.pkRows := rfl
@[simp] theorem acceptRequest_pkCols (mode : ScanMode) (thr : Half) (s : State) : (acceptRequest mode thr s).pkCols = s.pkCols := rfl
@[simp] theorem acceptRequest_resWidth (mode : ScanMode) (thr : Half) (s : State) : (acceptRequest mode thr s).resWidth = s.resWidth := rfl
@[simp] theorem acceptRequest_resHeight (mode : ScanMode) (thr : Half) (s : State) : (acceptRequest mode thr s).resHeight = s.resHeight := rfl
@[simp] theorem acceptRequest_reqW (mode : ScanMode) (thr : Half) (s : State) : (acceptRequest mode thr s).reqW = s.width := rfl
@[simp] theorem acceptRequest_reqH (mode : ScanMode) (thr : Half) (s : State) : (acceptRequest mode thr s).reqH = s.height := rfl
@[simp] theorem acceptRequest_reqMode (mode : ScanMode) (thr : Half) (s : State) : (acceptRequest mode thr s).reqMode = mode := rfl
@[simp] theorem acceptRequest_reqThr (mode : ScanMode) (thr : Half) (s : State) : (acceptRequest mode thr s).reqThr = thr := rfl
@[simp] theorem acceptRequest_img (mode : ScanMode) (thr : Half) (s : State) : (acceptRequest mode thr s).img = s.img := rfl
@[simp] theorem acceptRequest_bin (mode : ScanMode) (thr : Half) (s : State) : (acceptRequest mode thr s).bin = s.bin := rfl
@[simp] theorem acceptRequest_out (mode : ScanMode) (thr : Half) (s : State) : (acceptRequest mode thr s).out = s.out := rfl
@[simp] theorem acceptRequest_raced (mode : ScanMode) (thr : Half) (s : State) : (acceptRequest mode thr s).raced = [] := rfl
@[simp] theorem acceptRequest_program (mode : ScanMode) (thr : Half) (s : State) : (acceptRequest mode thr s).program = s.program := rfl
@[simp] theorem acceptRequest_schedule (mode : ScanMode) (thr : Half) (s : State) : (acceptRequest mode thr s).schedule = s.schedule := rfl
@[simp] theorem acceptRequest_replies (mode : ScanMode) (thr : Half) (s : State) : (acceptRequest mode thr s).replies = s.replies := rfl
@[simp] theorem acceptRequest_draws (mode : ScanMode) (thr : Half) (s : State) : (acceptRequest mode thr s).draws = s.draws := rfl
@[simp] theorem acceptRequest_resets (mode : ScanMode) (thr : Half) (s : State) : (acceptRequest mode thr s).resets = s.resets := rfl

/-! ### complete -/

@[simp] theorem complete_cfg (s : State) : (complete s).cfg = s.cfg := rfl
@[simp] theorem complete_status (s : State) : (complete s).status = s.status.completed := rfl
@[simp] theorem complete_width (s : State) : (complete s).width = s.width := rfl
@[simp] theorem complete_height (s : State) : (complete s).height = s.height := rfl
@[simp] theorem complete_outLen (s : State) : (complete s).outLen = BitVec.ofNat 32 (requestedConversion s).bytes.length := rfl
@[simp] theorem complete_pkRows (s : State) : (complete s).pkRows = BitVec.ofNat 16 (requestedConversion s).transformed.rows := rfl
@[simp] theorem complete_pkCols (s : State) : (complete s).pkCols = BitVec.ofNat 16 (requestedConversion s).transformed.cols := rfl
@[simp] theorem complete_resWidth (s : State) : (complete s).resWidth = s.reqW := rfl
@[simp] theorem complete_resHeight (s : State) : (complete s).resHeight = s.reqH := rfl
@[simp] theorem complete_reqW (s : State) : (complete s).reqW = s.reqW := rfl
@[simp] theorem complete_reqH (s : State) : (complete s).reqH = s.reqH := rfl
@[simp] theorem complete_reqMode (s : State) : (complete s).reqMode = s.reqMode := rfl
@[simp] theorem complete_reqThr (s : State) : (complete s).reqThr = s.reqThr := rfl
@[simp] theorem complete_img (s : State) : (complete s).img = s.img := rfl
@[simp] theorem complete_bin (s : State) : (complete s).bin = s.bin.writeAll (requestedConversion s).binary.binCells := rfl
@[simp] theorem complete_out (s : State) : (complete s).out = s.out.writeAll (outCells (requestedConversion s).bytes) := rfl
@[simp] theorem complete_raced (s : State) : (complete s).raced = [] := rfl
@[simp] theorem complete_program (s : State) : (complete s).program = s.program := rfl
@[simp] theorem complete_schedule (s : State) : (complete s).schedule = s.schedule := rfl
@[simp] theorem complete_replies (s : State) : (complete s).replies = s.replies := rfl
@[simp] theorem complete_draws (s : State) : (complete s).draws = s.draws + 1 := rfl
@[simp] theorem complete_resets (s : State) : (complete s).resets = s.resets := rfl

/-! ### resetEvent -/

@[simp] theorem resetEvent_cfg (s : State) : (resetEvent s).cfg = s.cfg := rfl
@[simp] theorem resetEvent_status (s : State) : (resetEvent s).status = Status.zero := rfl
@[simp] theorem resetEvent_width (s : State) : (resetEvent s).width = 0 := rfl
@[simp] theorem resetEvent_height (s : State) : (resetEvent s).height = 0 := rfl
@[simp] theorem resetEvent_outLen (s : State) : (resetEvent s).outLen = 0 := rfl
@[simp] theorem resetEvent_pkRows (s : State) : (resetEvent s).pkRows = 0 := rfl
@[simp] theorem resetEvent_pkCols (s : State) : (resetEvent s).pkCols = 0 := rfl
@[simp] theorem resetEvent_resWidth (s : State) : (resetEvent s).resWidth = 0 := rfl
@[simp] theorem resetEvent_resHeight (s : State) : (resetEvent s).resHeight = 0 := rfl
@[simp] theorem resetEvent_reqW (s : State) : (resetEvent s).reqW = 0 := rfl
@[simp] theorem resetEvent_reqH (s : State) : (resetEvent s).reqH = 0 := rfl
@[simp] theorem resetEvent_reqMode (s : State) : (resetEvent s).reqMode = .rowMajor := rfl
@[simp] theorem resetEvent_reqThr (s : State) : (resetEvent s).reqThr = 0 := rfl
@[simp] theorem resetEvent_img (s : State) : (resetEvent s).img = [] := rfl
@[simp] theorem resetEvent_bin (s : State) : (resetEvent s).bin = [] := rfl
@[simp] theorem resetEvent_out (s : State) : (resetEvent s).out = [] := rfl
@[simp] theorem resetEvent_raced (s : State) : (resetEvent s).raced = [] := rfl
@[simp] theorem resetEvent_program (s : State) : (resetEvent s).program = s.program := rfl
@[simp] theorem resetEvent_schedule (s : State) : (resetEvent s).schedule = s.schedule := rfl
@[simp] theorem resetEvent_replies (s : State) : (resetEvent s).replies = s.replies := rfl
@[simp] theorem resetEvent_draws (s : State) : (resetEvent s).draws = s.draws := rfl
@[simp] theorem resetEvent_resets (s : State) : (resetEvent s).resets = s.resets + 1 := rfl

/-! ### STATUS -/

@[simp] theorem Status.cleared_busy (st : Status) : (st.cleared).busy = st.busy := rfl
@[simp] theorem Status.cleared_done (st : Status) : (st.cleared).done = false := rfl
@[simp] theorem Status.cleared_err (st : Status) : (st.cleared).err = false := rfl
@[simp] theorem Status.cleared_ovr (st : Status) : (st.cleared).ovr = false := rfl
@[simp] theorem Status.cleared_errCode (st : Status) : (st.cleared).errCode = 0 := rfl
@[simp] theorem Status.accepted_busy (st : Status) : (st.accepted).busy = true := rfl
@[simp] theorem Status.accepted_done (st : Status) : (st.accepted).done = st.done := rfl
@[simp] theorem Status.accepted_err (st : Status) : (st.accepted).err = st.err := rfl
@[simp] theorem Status.accepted_ovr (st : Status) : (st.accepted).ovr = st.ovr := rfl
@[simp] theorem Status.accepted_errCode (st : Status) : (st.accepted).errCode = st.errCode := rfl
@[simp] theorem Status.errored_busy (e : CommandError) (st : Status) : (Status.errored e st).busy = st.busy := rfl
@[simp] theorem Status.errored_done (e : CommandError) (st : Status) : (Status.errored e st).done = st.done := rfl
@[simp] theorem Status.errored_err (e : CommandError) (st : Status) : (Status.errored e st).err = true := rfl
@[simp] theorem Status.errored_ovr (e : CommandError) (st : Status) : (Status.errored e st).ovr = st.ovr := rfl
@[simp] theorem Status.errored_errCode (e : CommandError) (st : Status) : (Status.errored e st).errCode = e.code := rfl
@[simp] theorem Status.dropped_busy (st : Status) : (st.dropped).busy = st.busy := rfl
@[simp] theorem Status.dropped_done (st : Status) : (st.dropped).done = st.done := rfl
@[simp] theorem Status.dropped_err (st : Status) : (st.dropped).err = st.err := rfl
@[simp] theorem Status.dropped_ovr (st : Status) : (st.dropped).ovr = true := rfl
@[simp] theorem Status.dropped_errCode (st : Status) : (st.dropped).errCode = st.errCode := rfl
@[simp] theorem Status.completed_busy (st : Status) : (st.completed).busy = false := rfl
@[simp] theorem Status.completed_done (st : Status) : (st.completed).done = true := rfl
@[simp] theorem Status.completed_err (st : Status) : (st.completed).err = st.err := rfl
@[simp] theorem Status.completed_ovr (st : Status) : (st.completed).ovr = st.ovr := rfl
@[simp] theorem Status.completed_errCode (st : Status) : (st.completed).errCode = st.errCode := rfl

@[simp] theorem Status.zero_busy : Status.zero.busy = false := rfl
@[simp] theorem Status.zero_done : Status.zero.done = false := rfl
@[simp] theorem Status.zero_err : Status.zero.err = false := rfl
@[simp] theorem Status.zero_ovr : Status.zero.ovr = false := rfl
@[simp] theorem Status.zero_errCode : Status.zero.errCode = 0 := rfl

end Sys2Proof.Machine
end

