-- ==== Sys2Proof/Laws/Memory.lean ====
section
/-! SUPPORT. The laws of the memories: read after write, and the canonical form (20_memory.md R46, R50). -/

namespace Sys2Proof.Machine

variable {w : Nat}

@[simp] theorem Memory.read_nil (a : Nat) : Memory.read ([] : Memory w) a = none := rfl

/-- A read after a write gives the value written at its address and the old content elsewhere. -/
theorem Memory.read_write (m : Memory w) (a b : Nat) (v : BitVec w) :
    (m.write a v).read b = if a = b then some v else m.read b := by
  induction m with
  | nil => simp [Memory.write, Memory.read]
  | cons p m ih =>
    obtain ⟨c, u⟩ := p
    simp only [Memory.write]
    split
    · simp only [Memory.read]
    · split
      · subst_vars; simp only [Memory.read]; split <;> simp_all
      · simp only [Memory.read, ih]; split <;> split <;> simp_all

@[simp] theorem Memory.read_write_same (m : Memory w) (a : Nat) (v : BitVec w) : (m.write a v).read a = some v := by
  simp [Memory.read_write]

theorem Memory.read_write_other (m : Memory w) {a b : Nat} (h : a ≠ b) (v : BitVec w) :
    (m.write a v).read b = m.read b := by
  simp [Memory.read_write, h]

/-- The addresses a write leaves listed are the old ones and the one written. -/
theorem Memory.mem_write {m : Memory w} {a : Nat} {v : BitVec w} {p : Nat × BitVec w} (h : p ∈ m.write a v) :
    p = (a, v) ∨ p ∈ m := by
  induction m with
  | nil => simpa [Memory.write] using h
  | cons q m ih =>
    obtain ⟨c, u⟩ := q
    simp only [Memory.write] at h
    split at h
    · simpa using h
    · split at h
      · simp only [List.mem_cons] at h ⊢; tauto
      · simp only [List.mem_cons] at h ⊢
        rcases h with h | h
        · exact .inr (.inl h)
        · rcases ih h with h | h <;> tauto

/-- A write keeps the canonical form. -/
theorem Memory.wf_write {m : Memory w} (h : m.wf) (a : Nat) (v : BitVec w) : (m.write a v).wf := by
  induction m with
  | nil => simp [Memory.write, Memory.wf]
  | cons q m ih =>
    obtain ⟨c, u⟩ := q
    have hq := List.pairwise_cons.1 h
    simp only [Memory.write]
    split
    · refine List.pairwise_cons.2 ⟨fun p hp => ?_, h⟩
      rcases List.mem_cons.1 hp with rfl | hp
      · assumption
      · have := hq.1 p hp; simp only at this ⊢; omega
    · split
      · subst_vars; exact List.pairwise_cons.2 hq
      · refine List.pairwise_cons.2 ⟨fun p hp => ?_, ih hq.2⟩
        rcases Memory.mem_write hp with rfl | hp
        · simp only; omega
        · exact hq.1 p hp

@[simp] theorem Memory.writeAll_nil (m : Memory w) : m.writeAll [] = m := rfl

@[simp] theorem Memory.writeAll_cons (m : Memory w) (c : Nat × BitVec w) (cs : List (Nat × BitVec w)) :
    m.writeAll (c :: cs) = (m.write c.1 c.2).writeAll cs := rfl

theorem Memory.wf_writeAll {m : Memory w} (h : m.wf) (cs : List (Nat × BitVec w)) : (m.writeAll cs).wf := by
  induction cs generalizing m with
  | nil => exact h
  | cons c cs ih => exact ih (Memory.wf_write h c.1 c.2)

theorem Memory.mem_writeAll {m : Memory w} {cs : List (Nat × BitVec w)} {p : Nat × BitVec w}
    (h : p ∈ m.writeAll cs) : p ∈ cs ∨ p ∈ m := by
  induction cs generalizing m with
  | nil => exact .inr h
  | cons c cs ih =>
    rcases ih h with h | h
    · exact .inl (List.mem_cons_of_mem _ h)
    · rcases Memory.mem_write h with rfl | h
      · exact .inl List.mem_cons_self
      · exact .inr h

/-- A cell that is not among those written keeps its content. -/
theorem Memory.read_writeAll_other (m : Memory w) {cs : List (Nat × BitVec w)} {a : Nat}
    (h : a ∉ cs.map Prod.fst) : (m.writeAll cs).read a = m.read a := by
  induction cs generalizing m with
  | nil => rfl
  | cons c cs ih =>
    simp only [List.map_cons, List.mem_cons, not_or] at h
    rw [Memory.writeAll_cons, ih _ h.2, Memory.read_write_other _ (Ne.symm h.1)]

/-- A cell written once holds the value written, where no address is written twice. -/
theorem Memory.read_writeAll_mem (m : Memory w) {cs : List (Nat × BitVec w)} (hn : (cs.map Prod.fst).Nodup)
    {a : Nat} {v : BitVec w} (h : (a, v) ∈ cs) : (m.writeAll cs).read a = some v := by
  induction cs generalizing m with
  | nil => cases h
  | cons c cs ih =>
    simp only [List.map_cons, List.nodup_cons] at hn
    rcases List.mem_cons.1 h with rfl | h
    · rw [Memory.writeAll_cons, Memory.read_writeAll_other _ hn.1, Memory.read_write_same]
    · exact ih _ hn.2 h

/-- Reset's memories are in canonical form. -/
theorem reset_memories_wf : State.reset.img.wf ∧ State.reset.bin.wf ∧ State.reset.out.wf :=
  ⟨List.Pairwise.nil, List.Pairwise.nil, List.Pairwise.nil⟩

/-- `ImgWrite` keeps the canonical form of IMG. -/
theorem storeSample_img_wf (a : Nat) (v : Byte) (s : State) (h : s.img.wf) : (storeSample a v s).img.wf :=
  Memory.wf_write h a v

/-- `Complete` keeps the canonical form of BIN and OUT. -/
theorem complete_memories_wf (s : State) (hb : s.bin.wf) (ho : s.out.wf) :
    (complete s).bin.wf ∧ (complete s).out.wf :=
  ⟨Memory.wf_writeAll hb _, Memory.wf_writeAll ho _⟩

end Sys2Proof.Machine
end

