-- ==== Sys2Proof/Laws/Stages.lean ====
section
/-! SUPPORT. What the three stages compute and where their results are stored (spec/40_binarizer.md to 42_byte_packer.md,
spec/20_memory.md R42, R43). -/

namespace Sys2Proof.Machine

/-! ### The Binarizer -/

@[simp] theorem binarize_rows (lum : Nat → Nat → Byte) (h w : Nat) (thr : Int) : (binarize lum h w thr).rows = h := rfl
@[simp] theorem binarize_cols (lum : Nat → Nat → Byte) (h w : Nat) (thr : Int) : (binarize lum h w thr).cols = w := rfl
@[simp] theorem binarize_bit (lum : Nat → Nat → Byte) (h w : Nat) (thr : Int) (y x : Nat) :
    (binarize lum h w thr).bit y x = sampleBit (lum y x) thr := rfl

theorem sampleBit_eq_one_iff (lum : Byte) (thr : Int) : sampleBit lum thr = 1 ↔ thr < (lum.toNat : Int) := by
  unfold sampleBit; split <;> simp_all

theorem sampleBit_eq_zero_iff (lum : Byte) (thr : Int) : sampleBit lum thr = 0 ↔ (lum.toNat : Int) ≤ thr := by
  unfold sampleBit; split <;> simp_all

/-- The extents of a transformed matrix depend on the mode and the extents only. -/
theorem transform_rows (mode : ScanMode) (b : Matrix) :
    (transform mode b).rows = match mode with
      | .rowMajor | .rowSerpentine => b.rows
      | .columnMajor | .columnSerpentine => b.cols := by
  cases mode <;> rfl

theorem transform_cols (mode : ScanMode) (b : Matrix) :
    (transform mode b).cols = match mode with
      | .rowMajor | .rowSerpentine => b.cols
      | .columnMajor | .columnSerpentine => b.rows := by
  cases mode <;> rfl

/-! ### The cells of BIN -/

/-- The cells of BIN are those of the pixels inside the extents, each with its bit. -/
theorem mem_binCells {b : Matrix} {p : Nat × Bit} :
    p ∈ b.binCells ↔ ∃ y < b.rows, ∃ x < b.cols, p = (sampleAddress b.cols y x, b.bit y x) := by
  simp only [Matrix.binCells, List.mem_flatMap, List.mem_range, List.mem_map, eq_comm]

theorem sampleAddress_lt {h w y x : Nat} (hy : y < h) (hx : x < w) : sampleAddress w y x < h * w := by
  unfold sampleAddress
  calc y * w + x < y * w + w := by omega
    _ = (y + 1) * w := by ring
    _ ≤ h * w := Nat.mul_le_mul_right _ hy

theorem sampleAddress_inj {w y x y' x' : Nat} (hx : x < w) (hx' : x' < w)
    (h : sampleAddress w y x = sampleAddress w y' x') : y = y' ∧ x = x' := by
  unfold sampleAddress at h
  have hw : 0 < w := by omega
  have hd : ∀ q r, r < w → (q * w + r) / w = q := fun q r hr => by
    rw [Nat.add_comm, Nat.add_mul_div_right _ _ hw, Nat.div_eq_of_lt hr, Nat.zero_add]
  have hy : y = y' := by rw [← hd y x hx, h, hd y' x' hx']
  subst hy
  exact ⟨rfl, by omega⟩

/-- The cell numbers, in order, are 0 to `rows * cols - 1`. -/
theorem binCells_addresses (b : Matrix) : b.binCells.map Prod.fst = List.range (b.rows * b.cols) := by
  have key : ∀ n, ((List.range n).flatMap fun y => (List.range b.cols).map fun x => (sampleAddress b.cols y x, b.bit y x)).map
      Prod.fst = List.range (n * b.cols) := by
    intro n
    induction n with
    | zero => simp
    | succ n ih =>
      rw [List.range_succ, List.flatMap_append, List.map_append, ih, Nat.succ_mul, List.range_add]
      simp [sampleAddress, Function.comp_def]
  exact key b.rows

theorem binCells_nodup (b : Matrix) : (b.binCells.map Prod.fst).Nodup := by
  rw [binCells_addresses]; exact List.nodup_range

/-- BIN after the store of a matrix: its bit at every pixel's cell. -/
theorem read_writeAll_binCells (m : Memory 1) (b : Matrix) {y x : Nat} (hy : y < b.rows) (hx : x < b.cols) :
    (m.writeAll b.binCells).read (sampleAddress b.cols y x) = some (b.bit y x) :=
  Memory.read_writeAll_mem m (binCells_nodup b) (mem_binCells.2 ⟨y, hy, x, hx, rfl⟩)

/-- BIN cells beyond the matrix are not written. -/
theorem read_writeAll_binCells_other (m : Memory 1) (b : Matrix) {a : Nat} (h : b.rows * b.cols ≤ a) :
    (m.writeAll b.binCells).read a = m.read a := by
  apply Memory.read_writeAll_other
  rw [binCells_addresses]; simpa using h

/-! ### The cells of OUT -/

theorem outCells_addresses (bytes : List Byte) : (outCells bytes).map Prod.fst = List.range bytes.length := by
  have h : (outCells bytes).map Prod.fst = bytes.zipIdx.map Prod.snd := by
    simp [outCells, Function.comp_def]
  rw [h, List.zipIdx_map_snd, List.range_eq_range']

theorem outCells_nodup (bytes : List Byte) : ((outCells bytes).map Prod.fst).Nodup := by
  rw [outCells_addresses]; exact List.nodup_range

/-- OUT after the store of a byte sequence: byte `i` at cell `i`. -/
theorem read_writeAll_outCells (m : Memory 8) (bytes : List Byte) {i : Nat} (h : i < bytes.length) :
    (m.writeAll (outCells bytes)).read i = bytes[i]? := by
  rw [List.getElem?_eq_getElem h]
  apply Memory.read_writeAll_mem m (outCells_nodup bytes)
  simp only [outCells, List.mem_map]
  exact ⟨(bytes[i], i), List.mk_mem_zipIdx_iff_getElem?.2 (List.getElem?_eq_getElem h), rfl⟩

/-- OUT cells beyond the sequence are not written. -/
theorem read_writeAll_outCells_other (m : Memory 8) (bytes : List Byte) {i : Nat} (h : bytes.length ≤ i) :
    (m.writeAll (outCells bytes)).read i = m.read i := by
  apply Memory.read_writeAll_other
  rw [outCells_addresses]; simpa using h

/-! ### The Byte Packer -/

theorem stripCount_eq (rows : Nat) : stripCount rows = (rows + 7) / 8 := rfl

/-- A list of `n` blocks of `k` elements has element `j` of block `i` at `i * k + j`. -/
theorem getElem?_flatMap_range {α : Type} (f : Nat → Nat → α) (n k : Nat) {i j : Nat} (hi : i < n) (hj : j < k) :
    ((List.range n).flatMap fun s => (List.range k).map (f s))[i * k + j]? = some (f i j) := by
  have hl : ∀ m, ((List.range m).flatMap fun s => (List.range k).map (f s)).length = m * k := by
    intro m; simp [List.length_flatMap]
  induction n with
  | zero => omega
  | succ n ih =>
    rw [List.range_succ, List.flatMap_append]
    by_cases h : i < n
    · have : i * k + j < n * k := by
        calc i * k + j < i * k + k := by omega
          _ = (i + 1) * k := by ring
          _ ≤ n * k := Nat.mul_le_mul_right _ h
      rw [List.getElem?_append_left (by rw [hl]; exact this)]
      exact ih h
    · have hin : i = n := by omega
      subst hin
      rw [List.getElem?_append_right (by rw [hl]; omega), hl]
      simp [hj]

theorem pack_length (m : Matrix) : (pack m).length = stripCount m.rows * m.cols := by
  simp [pack, List.length_flatMap]

/-- The byte of strip `s` and column `c` stands at `s * cols + c`. -/
theorem pack_getElem? (m : Matrix) {s c : Nat} (hs : s < stripCount m.rows) (hc : c < m.cols) :
    (pack m)[s * m.cols + c]? = some (packedByte m s c) :=
  getElem?_flatMap_range (packedByte m) _ _ hs hc

/-- What a row adds has no bit but its own. -/
theorem packedBit_getLsbD (m : Matrix) (s c b k : Nat) (hk : k < 8) :
    (packedBit m s c b).getLsbD k = (decide (k = b) && decide (8 * s + b < m.rows) && decide (m.bit (8 * s + b) c = 1)) := by
  have bit_cases : ∀ v : Bit, v = 0 ∨ v = 1 := by decide
  unfold packedBit
  simp only [show Config.stripRows = 8 from rfl]
  by_cases hr : 8 * s + b < m.rows
  · rcases bit_cases (m.bit (8 * s + b) c) with h | h
    · simp [hr, h]
    · simp only [hr, h, if_true, BitVec.getLsbD_shiftLeft, hk, decide_true, Bool.true_and, Bool.and_true]
      by_cases hkb : k = b
      · subst hkb; simp
      · by_cases hlt : k < b
        · simp [hlt, hkb]
        · have h1 : b ≤ k → ¬ k - b = 0 := fun _ => by omega
          simpa [hkb] using h1
  · simp [hr]

/-- Lane `b` of a byte is row `8*s + b` of its column, 0 beyond the extent (rules R107, R112). -/
theorem packedByte_getLsbD (m : Matrix) (s c b : Nat) (hb : b < 8) :
    (packedByte m s c).getLsbD b = (decide (8 * s + b < m.rows) && decide (m.bit (8 * s + b) c = 1)) := by
  have h8 : List.range 8 = [0, 1, 2, 3, 4, 5, 6, 7] := rfl
  simp only [packedByte, show Config.stripRows = 8 from rfl, h8, List.foldl, BitVec.getLsbD_or,
    packedBit_getLsbD m s c _ b hb]
  obtain rfl | rfl | rfl | rfl | rfl | rfl | rfl | rfl :
      b = 0 ∨ b = 1 ∨ b = 2 ∨ b = 3 ∨ b = 4 ∨ b = 5 ∨ b = 6 ∨ b = 7 := by omega
  all_goals simp

/-- Packing looks at no bit outside the extents. -/
theorem pack_congr {a b : Matrix} (hr : a.rows = b.rows) (hc : a.cols = b.cols)
    (h : ∀ r < a.rows, ∀ c < a.cols, a.bit r c = b.bit r c) : pack a = pack b := by
  unfold pack
  rw [← hr, ← hc]
  refine List.flatMap_congr fun s _ => List.map_congr_left fun c hcm => ?_
  have hlt : c < a.cols := List.mem_range.1 hcm
  apply BitVec.eq_of_getLsbD_eq
  intro i hi
  rw [packedByte_getLsbD _ _ _ _ hi, packedByte_getLsbD _ _ _ _ hi, ← hr]
  by_cases hlt' : 8 * s + i < a.rows
  · rw [h _ hlt' _ hlt]
  · simp [hlt']

/-- Transforming looks at no bit outside the extents. -/
theorem transform_congr (mode : ScanMode) {a b : Matrix} (hr : a.rows = b.rows) (hc : a.cols = b.cols)
    (h : ∀ r < a.rows, ∀ c < a.cols, a.bit r c = b.bit r c) :
    ∀ r < (transform mode a).rows, ∀ c < (transform mode a).cols, (transform mode a).bit r c = (transform mode b).bit r c := by
  intro r hr' c hc'
  cases mode
  · exact h r hr' c hc'
  · exact h c hc' r hr'
  · simp only [transform, transformRowSerpentine] at *
    split
    · exact h r hr' c hc'
    · rw [← hc]; exact h r hr' _ (by omega)
  · simp only [transform, transformColumnSerpentine] at *
    split
    · exact h c hc' r hr'
    · rw [← hr]; exact h _ (by omega) r hr'

end Sys2Proof.Machine
end

