-- ==== Sys2Proof/Laws/Transactions.lean ====
section
/-! SUPPORT. What the shared operations can do: one inversion lemma for the issue of a command, for a host transaction and
for a step, and the contents `complete` leaves. -/

namespace Sys2Proof.Machine

/-- Bit 0 of STATUS is BUSY (rule R14). -/
theorem Status.word_getLsbD_zero (st : Status) : st.word.getLsbD 0 = st.busy := by
  obtain ⟨busy, done, err, ovr, code⟩ := st
  revert busy done err ovr code
  decide

/-! ### The issue of a command -/

/-- The condition of rule R142 in numbers. -/
theorem imageInvalid_iff (s : State) : imageInvalid s = true ↔ s.badExtents := by
  have h : ∀ v : Half, v = 0 ↔ v.toNat = 0 := fun v =>
    ⟨fun e => by rw [e]; rfl, fun e => BitVec.eq_of_toNat_eq (by rw [e]; rfl)⟩
  simp only [imageInvalid, Bool.or_eq_true, decide_eq_true_eq, State.badExtents, h, or_assoc]

/-- A ready state is one in which rule R142 does not apply and no conversion is running. -/
theorem readyToConvert_iff (s : State) : s.readyToConvert ↔ s.status.busy = false ∧ ¬ s.badExtents := by
  simp only [State.readyToConvert, State.badExtents]
  constructor
  · rintro ⟨h, hw, hh, hc⟩; exact ⟨h, by omega⟩
  · rintro ⟨h, hb⟩; exact ⟨h, by omega, by omega, by omega⟩

/-- Every register has its own offset and each of the nine offsets its register (rule R70). -/
theorem reg_ofOffset_offset (r : Reg) : Reg.ofOffset r.offset = some r := by cases r <;> rfl

theorem reg_offset_ofOffset {off : Nat} {r : Reg} (h : Reg.ofOffset off = some r) : r.offset = off := by
  unfold Reg.ofOffset at h
  split at h <;> cases h <;> rfl

/-- Everything the issue of a command can do (rule R120). -/
theorem issue_cases (request : Option (ScanMode × Half)) (s : State) :
    (s.status.busy = true ∧ issue request s = dropCommand s) ∨
    (s.status.busy = false ∧ s.badExtents ∧ issue request s = raiseError .invalidImage (clearOutcome s)) ∨
    (s.status.busy = false ∧ ¬ s.badExtents ∧ request = none ∧
      issue request s = raiseError .unsupportedMode (clearOutcome s)) ∨
    (s.status.busy = false ∧ ¬ s.badExtents ∧ ∃ mode thr, request = some (mode, thr) ∧
      issue request s = acceptRequest mode thr (clearOutcome s)) := by
  unfold issue
  by_cases hb : s.status.busy = true
  · simp [hb]
  · have hb' : s.status.busy = false := by simpa using hb
    by_cases hi : imageInvalid s = true
    · have := (imageInvalid_iff s).1 hi
      simp [hb', hi, this]
    · have hn : ¬ s.badExtents := fun h => hi ((imageInvalid_iff s).2 h)
      cases request with
      | none => simp [hb', hi, hn]
      | some r => obtain ⟨mode, thr⟩ := r; exact .inr (.inr (.inr ⟨hb', hn, mode, thr, rfl, by simp [hb', hi]⟩))

/-- Every command's meaning is the issue of rule R120 with its mode and threshold. -/
theorem exec_eq (i : Instr) (s : State) :
    exec i s = .next (issue (some (i.scanMode, thresholdLatch i.threshold)) s) := by
  cases i <;> rfl

/-- The request of a command word: none for an illegal one. -/
theorem issueWord_eq (c : Word) (s : State) :
    ∃ request, issueWord c s = .next (issue request s) ∧
      (∀ i, decode c = .instr i → request = some (i.scanMode, thresholdLatch i.threshold)) ∧
      (∀ m, decode c = .illegal m → request = none) := by
  unfold issueWord
  cases h : decode c with
  | instr i => exact ⟨_, exec_eq i s, fun j hj => by injection hj with hj; rw [hj], fun m hm => (nomatch hm)⟩
  | illegal m => exact ⟨none, rfl, fun j hj => (nomatch hj), fun _ _ => rfl⟩

/-! ### Host transactions -/

/-- Everything a host transaction that goes on can do. -/
theorem hostOp_cases {op : HostOp} {s u : State} (h : hostOp op s = .next u) :
    (∃ r, u = answer r s) ∨
    (∃ r, s.status.busy = true ∧ u = drawn (answer r s)) ∨
    (∃ c request, op = .regWrite 0x00 c ∧ issueWord c s = .next u ∧ u = issue request s) ∨
    (∃ v, op = .regWrite 0x08 v ∧ u = setWidth v s) ∨
    (∃ v, op = .regWrite 0x0C v ∧ u = setHeight v s) ∨
    u = s ∨
    (∃ a v, op = .imgWrite a v ∧ a < s.cfg.imgCap ∧ u = storeSample a v s) ∨
    (∃ r, op = .wait ∧ s.status.busy = true ∧ u = setProgram (.wait :: s.program) (answer r s)) := by
  cases op with
  | regRead off =>
    simp only [hostOp, hostRegRead] at h
    split at h
    · exact .inl ⟨_, by cases h; rfl⟩
    · cases h
  | regWrite off v =>
    simp only [hostOp, hostRegWrite] at h
    split at h
    · rename_i r hr
      unfold Reg.ofOffset at hr
      split at hr <;> cases hr
      · obtain ⟨request, hq, -⟩ := issueWord_eq v s
        have h' : issueWord v s = .next u := h
        exact .inr (.inr (.inl ⟨v, request, rfl, h', by rw [h'] at hq; cases hq; rfl⟩))
      · exact .inr (.inr (.inr (.inr (.inr (.inl (by cases h; rfl))))))
      · exact .inr (.inr (.inr (.inl ⟨v, rfl, by cases h; rfl⟩)))
      · exact .inr (.inr (.inr (.inr (.inl ⟨v, rfl, by cases h; rfl⟩))))
      all_goals exact .inr (.inr (.inr (.inr (.inr (.inl (by cases h; rfl))))))
    · cases h
  | imgWrite a v =>
    simp only [hostOp, hostImgWrite] at h
    split at h
    · rename_i ha
      exact .inr (.inr (.inr (.inr (.inr (.inr (.inl ⟨a, v, rfl, ha, by cases h; rfl⟩))))))
    · cases h
  | imgRead a =>
    simp only [hostOp, hostImgRead] at h
    split at h
    · exact .inl ⟨_, by cases h; rfl⟩
    · cases h
  | outRead i =>
    simp only [hostOp, hostOutRead] at h
    split at h
    · split at h
      · rename_i hb; exact .inr (.inl ⟨_, hb, by cases h; rfl⟩)
      · exact .inl ⟨_, by cases h; rfl⟩
    · cases h
  | binRead a =>
    simp only [hostOp, hostBinRead] at h
    split at h
    · split at h
      · rename_i hb; exact .inr (.inl ⟨_, hb, by cases h; rfl⟩)
      · exact .inl ⟨_, by cases h; rfl⟩
    · cases h
  | wait =>
    simp only [hostOp, hostWait] at h
    split at h
    · rename_i hb
      have : s.status.busy = true := (Status.word_getLsbD_zero s.status).symm.trans hb
      exact .inr (.inr (.inr (.inr (.inr (.inr (.inr ⟨_, rfl, this, by cases h; rfl⟩))))))
    · exact .inl ⟨_, by cases h; rfl⟩

/-- A transaction is refused exactly when it lies outside the map (rules R29, R47). -/
theorem hostOp_refused_iff (op : HostOp) (s : State) : (∃ r, hostOp op s = .refused r) ↔ op.inMap s.cfg = false := by
  cases op with
  | regRead off => simp only [hostOp, hostRegRead, HostOp.inMap]; split <;> simp_all
  | regWrite off v =>
    simp only [hostOp, hostRegWrite, HostOp.inMap]
    split
    · rename_i r hr
      cases r <;> simp [writeReg, hr]
      obtain ⟨request, hq, -⟩ := issueWord_eq v s
      simp [hq]
    · simp_all
  | imgWrite a v => simp only [hostOp, hostImgWrite, HostOp.inMap]; split <;> simp_all
  | imgRead a => simp only [hostOp, hostImgRead, HostOp.inMap]; split <;> simp_all
  | outRead i =>
    simp only [hostOp, hostOutRead, HostOp.inMap]
    split
    · split <;> simp_all
    · simp_all
  | binRead a =>
    simp only [hostOp, hostBinRead, HostOp.inMap]
    split
    · split <;> simp_all
    · simp_all
  | wait => simp only [hostOp, hostWait, HostOp.inMap]; split <;> simp

/-! ### A step -/

theorem nextTurn_codec {s : State} (h : nextTurn s = some .codec) : s.status.busy = true := by
  have hd : ∀ s : State, defaultTurn s = some .codec → s.status.busy = true := by
    intro s h
    unfold defaultTurn at h
    split at h
    · assumption
    · split at h <;> cases h
  unfold nextTurn at h
  split at h
  · cases h
  · split at h
    · exact hd s h
    · cases h
  · exact hd s h

theorem nextTurn_host {s : State} (h : nextTurn s = some .host) : ∃ op rest, s.program = op :: rest := by
  cases hp : s.program with
  | cons op rest => exact ⟨op, rest, rfl⟩
  | nil =>
    unfold nextTurn defaultTurn at h
    simp only [hp, List.isEmpty_nil, if_true] at h
    split at h
    · cases h
    · split at h <;> cases h
    · split at h <;> cases h

theorem nextTurn_of_nil {s : State} (hs : s.schedule = []) (hb : s.status.busy = true) : nextTurn s = some .codec := by
  simp [nextTurn, defaultTurn, hs, hb]

/-- Everything a step can do (rule R7: host, codec or reset; rule R159: nothing). -/
theorem step_cases {s u : State} (h : step s = .next u) :
    (nextTurn s = some .reset ∧ u = resetEvent (takeTurn s)) ∨
    (nextTurn s = some .codec ∧ u = complete (takeTurn s)) ∨
    (nextTurn s = none ∧ u = takeTurn s) ∨
    (nextTurn s = some .host ∧ ∃ op rest, s.program = op :: rest ∧
      hostOp op (setProgram rest (takeTurn s)) = .next u) := by
  unfold step at h
  cases hn : nextTurn s with
  | none => rw [hn] at h; cases h; exact .inr (.inr (.inl ⟨rfl, rfl⟩))
  | some t =>
    rw [hn] at h
    cases t with
    | reset => cases h; exact .inl ⟨rfl, rfl⟩
    | codec => cases h; exact .inr (.inl ⟨rfl, rfl⟩)
    | host =>
      obtain ⟨op, rest, hp⟩ := nextTurn_host hn
      refine .inr (.inr (.inr ⟨rfl, op, rest, hp, ?_⟩))
      simpa [runTurn, hostTurn, hp] using h

/-- A host step is the transaction that stands first in the program. -/
theorem step_of_host {s : State} {op : HostOp} {rest : List HostOp} (hn : nextTurn s = some .host)
    (hp : s.program = op :: rest) : step s = hostOp op (setProgram rest (takeTurn s)) := by
  simp [step, hn, runTurn, hostTurn, hp]

theorem step_of_codec {s : State} (hn : nextTurn s = some .codec) : step s = .next (complete (takeTurn s)) := by
  simp [step, hn, runTurn]

/-! ### Samples -/

/-- Rule R169: the sample is one of the candidates. -/
theorem sample_mem (s : State) (a : Nat) : sample s a ∈ sampleCandidates s a := by
  unfold sample sampleCandidates
  generalize replacedSamples s a = old
  cases old with
  | nil => simp
  | cons x xs =>
    have hlt : Config.raceChoice s.draws a % ((x :: xs).length + 1) < (imgCell s a :: x :: xs).length :=
      Nat.mod_lt _ (Nat.succ_pos _)
    simp only [List.getD_eq_getElem?_getD, List.getElem?_eq_getElem hlt, Option.getD_some]
    exact List.getElem_mem hlt

/-- A cell the host has left alone gives its content. -/
theorem sample_of_not_raced {s : State} {a : Nat} (h : ∀ p ∈ s.raced, p.1 ≠ a) : sample s a = imgCell s a := by
  have : replacedSamples s a = [] := by
    simp only [replacedSamples, List.map_eq_nil_iff, List.filter_eq_nil_iff]
    intro p hp; simpa using h p hp
  simp [sample, this]

/-- IMG after a store. -/
theorem imgCell_storeSample (a b : Nat) (v : Byte) (s : State) :
    imgCell (storeSample a v s) b = if a = b then v else imgCell s b := by
  simp only [imgCell, storeSample_img, storeSample_resets, Memory.read_write]
  split <;> simp

end Sys2Proof.Machine
end

