-- ==== Sys2Proof/Laws/PerInstr.lean ====
section
/-! SUPPORT. Statements made per instruction: the three fields of an instruction's command word (30_encoding.md R60, R73). -/

namespace Sys2Proof.Laws.EncodedFields

open Sys2Proof

/-- MODE is the command's number, TV says whether there is a threshold, and THR is the threshold, 0 without one. -/
def Statement (i : Instr) : Prop :=
  modeField (encode i) = BitVec.ofNat 15 i.modeNumber ∧ tvField (encode i) = i.threshold.isSome ∧
    thrField (encode i) = BitVec.ofInt 16 (i.threshold.getD 0)

/-- The three fields of a word put together as rule R73 says. -/
theorem fields_of_encodeMode (m : Nat) (hm : m < 4) (t : Option Int) :
    modeField (encodeMode m t) = BitVec.ofNat 15 m ∧ tvField (encodeMode m t) = t.isSome ∧
      thrField (encodeMode m t) = BitVec.ofInt 16 (t.getD 0) := by
  have key : ∀ (k : Nat) (v : Word), k < 65536 → v = (BitVec.ofNat 32 k <<< 16) ||| 0x8000#32 ||| BitVec.ofNat 32 m →
      v.toNat = k * 65536 + 32768 + m := by
    intro k v hk hv
    have e : v = BitVec.ofNat 32 (k * 65536 + 32768 + m) := by
      rw [hv]
      apply BitVec.eq_of_toNat_eq
      have h1 : (k <<< 16 ||| 0x8000) ||| m = k * 65536 + 32768 + m := by
        rw [Nat.lor_assoc, ← Nat.shiftLeft_add_eq_or_of_lt (b := 32768 ||| m) (i := 16)
          (Nat.or_lt_two_pow (n := 16) (by omega) (by omega)), Nat.shiftLeft_eq]
        obtain rfl | rfl | rfl | rfl : m = 0 ∨ m = 1 ∨ m = 2 ∨ m = 3 := by omega
        all_goals simp [Nat.add_assoc]
      simp only [BitVec.toNat_or, BitVec.toNat_shiftLeft, BitVec.toNat_ofNat]
      rw [Nat.mod_eq_of_lt (a := k) (by omega), Nat.mod_eq_of_lt (a := m) (by omega),
        Nat.mod_eq_of_lt (a := k <<< 16) (by rw [Nat.shiftLeft_eq]; omega)]
      simpa using (h1.trans (Nat.mod_eq_of_lt (by omega)).symm)
    rw [e, BitVec.toNat_ofNat, Nat.mod_eq_of_lt (by omega)]
  cases t with
  | none =>
    obtain rfl | rfl | rfl | rfl : m = 0 ∨ m = 1 ∨ m = 2 ∨ m = 3 := by omega
    all_goals decide
  | some t =>
    have hr : (t % 65536).toNat < 65536 := by omega
    have hv := key _ (encodeMode m (some t)) hr rfl
    generalize encodeMode m (some t) = v at hv ⊢
    refine ⟨?_, ?_, ?_⟩
    · apply BitVec.eq_of_toNat_eq
      simp only [modeField, BitVec.extractLsb'_toNat, hv, BitVec.toNat_ofNat, Nat.shiftRight_zero]
      omega
    · simp only [tvField, BitVec.getLsbD, hv, Nat.testBit_eq_decide_div_mod_eq, Option.isSome_some, decide_eq_true_eq]
      omega
    · apply BitVec.eq_of_toNat_eq
      simp only [thrField, BitVec.extractLsb'_toNat, hv, Nat.shiftRight_eq_div_pow, Option.getD_some, BitVec.toNat_ofInt]
      omega

theorem convRm (t : Option Int) : Statement (.convRm t) := fields_of_encodeMode 0 (by omega) t
theorem convCm (t : Option Int) : Statement (.convCm t) := fields_of_encodeMode 1 (by omega) t
theorem convRs (t : Option Int) : Statement (.convRs t) := fields_of_encodeMode 2 (by omega) t
theorem convCs (t : Option Int) : Statement (.convCs t) := fields_of_encodeMode 3 (by omega) t

end Sys2Proof.Laws.EncodedFields
end

