-- ==== Sys2Proof/Tests/Slice0.lean ====
section
/-! SUPPORT. Tests: the refusals of WellFormed, words written out from the spec's fields, vectors of
spec/95_test_vectors.md, and for every statement with hypotheses a witness that meets them. Expected values come from
spec/, never from the model. -/

namespace Sys2Proof.Tests

open Sys2Proof Sys2Proof.Machine

/-- The state of a next outcome: states are compared by `decide`, outcomes through this. -/
def result : Host.Outcome State Fault Refusal → Option State
  | .next s => some s
  | .fault _ => none
  | .refused _ => none

theorem next_of_result {o : Host.Outcome State Fault Refusal} {s : State} (h : result o = some s) : o = .next s := by
  cases o <;> simp_all [result]

/-! ### WellFormed (30_encoding.md R61) -/

theorem test_wf_refuses_threshold_above_field : (Instr.convRm (some 32768)).wf = false := by decide
theorem test_wf_refuses_threshold_below_field : (Instr.convCs (some (-32769))).wf = false := by decide
theorem test_wf_takes_the_field_bounds :
    (Instr.convCm (some 32767)).wf = true ∧ (Instr.convRs (some (-32768))).wf = true ∧ (Instr.convRs none).wf = true := by
  decide

/-! ### Decoding: THR (16 bits), TV, MODE (15 bits) written out from rule R60 -/

theorem test_decode_CONV_RM :
    decode 0b0000000001111111_1_000000000000000#32 = .instr (.convRm (some 127)) ∧
    decode 0b1111111111111111_0_000000000000000#32 = .instr (.convRm none) := by decide
theorem test_decode_CONV_CM :
    decode 0b0000000100000000_1_000000000000001#32 = .instr (.convCm (some 256)) ∧
    decode 0b0000000000000000_0_000000000000001#32 = .instr (.convCm none) := by decide
theorem test_decode_CONV_RS :
    decode 0b0000000000000000_1_000000000000010#32 = .instr (.convRs (some 0)) ∧
    decode 0b0001001000110100_0_000000000000010#32 = .instr (.convRs none) := by decide
theorem test_decode_CONV_CS :
    decode 0b0000000001100100_1_000000000000011#32 = .instr (.convCs (some 100)) ∧
    decode 0b1000000000000000_1_000000000000011#32 = .instr (.convCs (some (-32768))) := by decide
/-- V-ENC-14 to V-ENC-18. -/
theorem test_decode_illegal :
    decode 0x00000004#32 = .illegal 4 ∧ decode 0x00007FFF#32 = .illegal 32767 ∧
    decode 0xFFFFFFFF#32 = .illegal 32767 ∧ decode 0x007F8004#32 = .illegal 4 ∧
    decode 0x00004000#32 = .illegal 16384 := by decide
/-- V-ENC-5 to V-ENC-11. -/
theorem test_encode :
    [Instr.convRm (some 127), .convCs (some 100), .convRm (some (-1)), .convCm (some 256), .convRs (some 0),
      .convRm (some (-32768)), .convRm (some 32767)].map encode =
    [0x007F8000#32, 0x00648003#32, 0xFFFF8000#32, 0x01008001#32, 0x00008002#32, 0x80008000#32, 0x7FFF8000#32] := by decide

/-- Rules R67 and R69: how words and lines are written. -/
theorem test_text :
    (decode 0x00648003#32).text = "CONV.CS #100" ∧ (decode 0x00000001#32).text = "CONV.CM" ∧
    (decode 0x00004000#32).text = "ILLEGAL 16384" := by decide
theorem test_lines :
    commandLine (.convCs (some 100)) = .regWrite 0x00 0x00648003 ∧ writeLine .height 8 = .regWrite 0x0C 8 ∧
    readLine .resHeight = .regRead 0x20 ∧
    loadSamples 4 [7, 8] = [.imgWrite 4 7, .imgWrite 5 8] := by decide

/-! ### Small states -/

/-- An image of `w` columns and `h` rows with its samples written, BUSY = 0, and room for 20 cells. -/
def loaded (w h : Half) (samples : List Byte) : State :=
  { State.reset with cfg := { imgCap := 20 }, width := w, height := h, img := samples.zipIdx.map fun p => (p.2, p.1) }

/-- The same with a request latched. -/
def running (w h : Half) (samples : List Byte) (mode : ScanMode) (thr : Half) : State :=
  issue (some (mode, thr)) (loaded w h samples)

/-- Image A of section 2.5. -/
def imageA : List Byte := [200, 10, 130, 127, 128, 255]

/-- Image B of section 2.5. -/
def imageB : List Byte := [255, 0, 0, 255, 255, 255, 0, 0, 255, 0, 255, 0, 0, 255, 255, 255, 255, 0, 0, 255]

def ready : State := loaded 3 2 imageA
def busy : State := running 3 2 imageA .rowMajor 127
def finished : State := complete busy
def failed : State := issue none ready

def extents (s : State) : Word × Half × Half × Half × Half := (s.outLen, s.pkRows, s.pkCols, s.resWidth, s.resHeight)

/-! ### The stages (95_test_vectors.md 2.2 to 2.4) -/

/-- V-BIN-1 to V-BIN-11. -/
theorem test_binarize :
    [-32768, -1, 0, 126, 127, 128, 254, 255, 256, 32767].map (fun t : Int =>
      pack (binarize (fun y _ => [0, 1, 126, 127, 128, 254, 255, 100].getD y 0) 8 1 t)) =
    [[0xff], [0xff], [0xfe], [0x78], [0x70], [0x60], [0x40], [0x00], [0x00], [0x00]] := by decide

/-- A matrix from its rows. -/
def ofRows (rows : List (List Bit)) (cols : Nat) : Matrix :=
  { rows := rows.length, cols := cols, bit := fun r c => (rows.getD r []).getD c 0 }

/-- The rows of a matrix. -/
def toRows (m : Matrix) : List (List Bit) := (List.range m.rows).map fun r => (List.range m.cols).map (m.bit r)

/-- V-XF-5 to V-XF-8. -/
theorem test_transform :
    [ScanMode.rowMajor, .columnMajor, .rowSerpentine, .columnSerpentine].map (fun mode =>
      toRows (transform mode (ofRows [[1,0,0,0],[1,1,0,0],[1,1,1,0],[1,1,1,1]] 4))) =
    [[[1,0,0,0],[1,1,0,0],[1,1,1,0],[1,1,1,1]], [[1,1,1,1],[0,1,1,1],[0,0,1,1],[0,0,0,1]],
      [[1,0,0,0],[0,0,1,1],[1,1,1,0],[1,1,1,1]], [[1,1,1,1],[1,1,1,0],[0,0,1,1],[1,0,0,0]]] := by decide

/-- V-PK-3, V-PK-5, V-PK-8, V-PK-9. -/
theorem test_pack :
    pack (ofRows [[1],[0],[1],[1],[0],[0],[0],[1],[1]] 1) = [0x8d, 0x01] ∧
    pack (ofRows (List.replicate 10 [1,1,1]) 3) = [0xff, 0xff, 0xff, 0x03, 0x03, 0x03] ∧
    pack (ofRows [[1,0],[1,0],[1,1],[0,0],[1,0],[0,1],[0,1],[1,1],[1,0],[1,0]] 2) = [0x97, 0xe4, 0x03, 0x00] ∧
    pack (ofRows [[1,1,1,1,1,1,1,1]] 8) = [1, 1, 1, 1, 1, 1, 1, 1] := by decide

/-! ### The four instructions: issue and completion (V-CV-7 to V-CV-10, V-CV-1 to V-CV-4) -/

theorem test_CONV_RM_issue :
    exec (.convRm (some (-1))) (loaded 1 8 []) =
      .next { loaded 1 8 [] with status := { Status.zero with busy := true }, reqW := 1, reqH := 8, reqThr := 0xFFFF } :=
  next_of_result (by decide)
theorem test_CONV_RM_complete :
    (complete (running 2 10 imageB .rowMajor 127)).out = [(0, 0xb5), (1, 0xc6), (2, 0x01), (3, 0x02)] ∧
    extents (complete (running 2 10 imageB .rowMajor 127)) = (4, 10, 2, 2, 10) := by decide
theorem test_CONV_CM_issue :
    exec (.convCm none) (loaded 1 8 []) =
      .next { loaded 1 8 [] with
        status := { Status.zero with busy := true }, reqW := 1, reqH := 8, reqMode := .columnMajor, reqThr := 127 } :=
  next_of_result (by decide)
theorem test_CONV_CM_complete :
    (complete (running 2 10 imageB .columnMajor 127)).out.map Prod.snd = [1, 2, 3, 0, 1, 1, 2, 3, 1, 2] ∧
    extents (complete (running 2 10 imageB .columnMajor 127)) = (10, 2, 10, 2, 10) := by decide
theorem test_CONV_RS_issue :
    exec (.convRs none) (loaded 0 8 []) =
      .next { loaded 0 8 [] with status := { Status.zero with err := true, errCode := 1 } } :=
  next_of_result (by decide)
theorem test_CONV_RS_complete :
    (complete (running 2 10 imageB .rowSerpentine 127)).out.map Prod.snd = [0x97, 0xe4, 0x03, 0x00] ∧
    extents (complete (running 2 10 imageB .rowSerpentine 127)) = (4, 10, 2, 2, 10) := by decide
theorem test_CONV_CS_issue :
    exec (.convCs none) busy = .next { busy with status := { Status.zero with busy := true, ovr := true } } :=
  next_of_result (by decide)
theorem test_CONV_CS_complete :
    (complete (running 3 2 imageA .columnSerpentine 127)).out = [(0, 0x07), (1, 0x04)] ∧
    (complete (running 3 2 imageA .columnSerpentine 127)).bin.map Prod.snd = [1, 0, 1, 0, 1, 1] ∧
    extents (complete (running 3 2 imageA .columnSerpentine 127)) = (2, 3, 2, 3, 2) := by decide

/-! ### STATUS, errors, transactions -/

/-- The seven values of rule R15. -/
theorem test_status_words :
    [Status.zero, { Status.zero with busy := true }, { Status.zero with busy := true, ovr := true },
      { Status.zero with done := true }, { Status.zero with done := true, ovr := true },
      { Status.zero with err := true, errCode := 1 }, { Status.zero with err := true, errCode := 2 }].map Status.word =
    [0x00, 0x01, 0x09, 0x02, 0x0A, 0x14, 0x24] := by decide

/-- V-ERR-4 and V-ERR-7, V-ERR-13. -/
theorem test_errors :
    (issue none (loaded 1 8 [])).status.word = 0x24 ∧ (issue none (loaded 0 8 [])).status.word = 0x14 ∧
    (setWidth 0x00010001 (loaded 0 8 [])).width = 1 := by decide

/-- Program P1's first read of OUT: byte 0x0f (source scenario S3). -/
theorem test_out_read :
    hostOutRead 0 (complete (running 1 8 [255, 255, 255, 255, 0, 0, 0, 0] .rowMajor 127)) =
      .next (answer (.cell 0x0f) (complete (running 1 8 [255, 255, 255, 255, 0, 0, 0, 0] .rowMajor 127))) :=
  next_of_result (by decide)

/-- The first command after reset, with nothing set up: InvalidImageError (rule R30, program P4). -/
theorem test_first_command_after_reset :
    step (State.reset.withFetchWord 32 0) =
      .next { State.reset with status := { Status.zero with err := true, errCode := 1 } } :=
  next_of_result (by decide)

/-! ### Witnesses: each statement's hypotheses hold together somewhere -/

theorem ready_inv : ready.Inv where
  cfg := by decide
  imgWf := by decide
  binWf := by decide
  outWf := by decide
  imgBelow := by decide
  binBelow := by decide
  outBelow := by decide
  status := by decide
  busyRequest := by decide
  notDone := by decide
  doneResult := by decide
  doneBin := by decide
  doneOut := by decide
  raced := by decide

/-- BUSY with a raced cell: `ImgWrite(5, 0)` during the conversion. -/
theorem raced_inv : (storeSample 5 0 busy).Inv where
  cfg := by decide
  imgWf := by decide
  binWf := by decide
  outWf := by decide
  imgBelow := by decide
  binBelow := by decide
  outBelow := by decide
  status := by decide
  busyRequest := by decide
  notDone := by decide
  doneResult := by decide
  doneBin := by decide
  doneOut := by decide
  raced := by decide

theorem finished_inv : finished.Inv where
  cfg := by decide
  imgWf := by decide
  binWf := by decide
  outWf := by decide
  imgBelow := by decide
  binBelow := by decide
  outBelow := by decide
  status := by decide
  busyRequest := by decide
  notDone := by decide
  doneResult := by decide
  doneBin := by decide
  doneOut := by decide
  raced := by decide

theorem finished_agrees : finished.outAgreesWithBin := fun _ => ⟨.rowMajor, by decide⟩

theorem witness_EncodeThenDecodeGivesTheInstruction :
    (Instr.convRm (some 32767)).wf = true ∧ (Instr.convCs (some (-32768))).wf = true := by decide

/-- TV = 1; TV = 0 with THR = 0; TV = 0 with THR ignored. -/
theorem witness_DecodeThenEncodeGivesTheWordWhenNothingIsIgnored :
    (∃ i, decode 0xFFFF8000#32 = .instr i) ∧ (∃ i, decode 0x00000003#32 = .instr i) ∧
    (∃ i, decode 0x12340002#32 = .instr i) :=
  ⟨⟨.convRm (some (-1)), by decide⟩, ⟨.convCs none, by decide⟩, ⟨.convRs none, by decide⟩⟩

/-- Also the hypotheses of WordIsTheRowsInstructionExactlyWhenItsMaskMatches, second part. -/
theorem witness_EffectiveThresholdIsTheFieldOrTheDefault :
    decode 0x80008000#32 = .instr (.convRm (some (-32768))) ∧ (0xFFFF0000#32).getLsbD 15 = false := by decide

/-- MODE 4, the least illegal one, in a state where the image is good and in one where it is bad. -/
theorem witness_IllegalCommandConvertsNothingAndIsReported :
    4 ≤ ((0x00000004#32).extractLsb' 0 15).toNat ∧ ready.status.busy = false ∧ ¬ ready.badExtents ∧
    (loaded 0 8 []).status.busy = false ∧ (loaded 0 8 []).badExtents := by decide

theorem witness_StepRunsTheDecodedInstruction :
    (ready.withFetchWord 32 3).program = .regWrite 0x00 3 :: [] ∧ nextTurn (ready.withFetchWord 32 3) = some .host ∧
    decode 3#32 = .instr (.convCs none) ∧ decode 4#32 = .illegal 4 ∧ decodeTableWord 32 3 = some (.convCs none) := by
  decide

/-- Thresholds on both sides of the degenerate ranges, a cell inside the extents. -/
theorem witness_ThresholdsOutsideTheSampleRangeAreDegenerate :
    (0 < 2 ∧ 2 < 3) ∧ (-1 : Int) < 0 ∧ (255 : Int) ≤ 255 := by decide

/-- A sample equal to the new threshold and one next to it; BinarizerComparesStrictlyAndKeepsTheExtents too. -/
theorem witness_BinarizerIsNonIncreasingInTheThreshold :
    (0 < 2 ∧ 2 < 3) ∧ (127 : Int) ≤ 128 ∧ (((128 : Byte).toNat : Int) = 127 + 1) ∧ (((127 : Byte).toNat : Int) ≠ 127 + 1) := by
  decide

/-- The smallest shape, and a non-square one with a transposing mode. -/
theorem witness_EachModeIsAPermutationOfPositions :
    (1 ≤ 1 ∧ 1 ≤ 1) ∧ (ofRows [[1,0,1],[0,1,1]] 3).rows = 2 ∧ (ofRows [[1,0,1],[0,1,1]] 3).cols = 3 ∧
    1 < ScanMode.columnSerpentine.cols 3 2 ∧ 2 < ScanMode.columnSerpentine.rows 3 2 := by decide

/-- One column, one row, and a palindromic row; first, the matrix of RowSerpentineAndColumnMajorAreInvolutions. -/
theorem witness_ScanModesRelateAsRule99Says :
    (ofRows [[1,0],[1,1]] 2).bit 0 1 = 0 ∧ (ofRows [[1,0],[1,1]] 2).bit 1 1 = 1 ∧
    (ofRows [[1],[0]] 1).cols = 1 ∧ (ofRows [[1,0]] 2).rows = 1 ∧
    ∀ c < 3, (ofRows [[1,0,1],[0,1,0]] 3).bit 1 (3 - 1 - c) = (ofRows [[1,0,1],[0,1,0]] 3).bit 1 c := by decide

/-- Nine rows: the last strip holds one row (strip 1, lane 0); PackedByteIsTheWeightedSumOfItsRows and
LastStripIsPaddedWithZeros too. -/
theorem witness_PackedByteHoldsTheEightRowsOfItsStrip :
    1 < ((ofRows (List.replicate 9 [1]) 1).rows + 7) / 8 ∧ 0 < (ofRows (List.replicate 9 [1]) 1).cols ∧
    1 ≤ (ofRows (List.replicate 9 [1]) 1).rows ∧ (1 < (pack (ofRows (List.replicate 9 [1]) 1)).length) := by decide

/-- Image B in RowSerpentine: the last row (strip 1, bit 1) and the last column. -/
theorem witness_OutputBitIsThePixelOfTheTable :
    (running 2 10 imageB .rowSerpentine 127).raced = [] ∧ (running 2 10 imageB .rowSerpentine 127).reqH = 10 ∧
    1 < 8 ∧ 8 * 1 + 1 < ScanMode.rowSerpentine.rows 2 10 ∧ 1 < ScanMode.rowSerpentine.cols 2 10 := by decide

/-- The four cases: BUSY; a zero extent and an area one above the capacity (21 > 20); MODE 4; MODE 3 with an area equal to
the capacity. -/
theorem witness_CmdWriteDoesWhatRule120Says :
    busy.status.busy = true ∧
    ((loaded 0 8 []).status.busy = false ∧ (loaded 0 8 []).badExtents) ∧
    ((loaded 3 7 []).status.busy = false ∧ (loaded 3 7 []).badExtents) ∧
    ((loaded 2 10 []).status.busy = false ∧ ¬ (loaded 2 10 []).badExtents ∧
      4 ≤ ((0x00000004#32).extractLsb' 0 15).toNat ∧ ((0xFFFF8003#32).extractLsb' 0 15).toNat < 4) := by decide

/-- The smallest and the largest image for a capacity of 20; ThresholdsOutsideTheSampleRangeAreDegenerate, second part,
too. -/
theorem witness_ReadyCommandIsAccepted :
    (Instr.convCs (some (-32768))).wf = true ∧ (loaded 1 1 []).readyToConvert ∧ (loaded 2 10 []).readyToConvert := by decide

/-- InvalidImageErrorExactlyForBadExtents, UnsupportedModeErrorExactlyForUnknownModes and InvalidImageErrorHasPriority:
BUSY = 0 with both causes. -/
theorem witness_InvalidImageErrorHasPriority :
    (loaded 1 0 []).status.busy = false ∧ (loaded 1 0 []).badExtents ∧ 4 ≤ ((0xFFFFFFFF#32).extractLsb' 0 15).toNat := by
  decide

theorem witness_ErrorEntryTouchesOnlyStatusAndResultRegisters :
    finished.status.busy = false ∧ issueWord 4 finished = .next (issue none finished) ∧
      (issue none finished).status.err = true :=
  ⟨by decide, next_of_result (by decide), by decide⟩

/-- The four clauses: a running conversion; the codec's turn with OVR set; BUSY = 0 after DONE with OVR; reset's turn. -/
theorem witness_CommandDuringBusyIsDropped :
    busy.status.busy = true ∧
    ((dropCommand busy).status.legal ∧ (dropCommand busy).status.busy = true ∧ (dropCommand busy).status.ovr = true ∧
      nextTurn (dropCommand busy) = some .codec) ∧
    ((complete (dropCommand busy)).status.busy = false ∧ (complete (dropCommand busy)).status.ovr = true) ∧
    nextTurn { busy with schedule := [.reset] } = some .reset := by decide

theorem witness_RefusedCommandFailsAgainTheSameWay :
    ready.status.busy = false ∧ issueWord 4 ready = .next failed ∧ failed.status.err = true ∧
      finished.status.busy = false ∧ finished.cfg = failed.cfg ∧ finished.width = failed.width ∧
      finished.height = failed.height :=
  ⟨by decide, next_of_result (by decide), by decide⟩

/-- With a schedule that lets the host move first, and a program inside the map. -/
theorem witness_CommandWithoutAnErrorWillComplete :
    ready.status.busy = false ∧ 1 ≤ ready.width.toNat ∧ 1 ≤ ready.height.toNat ∧
    ready.width.toNat * ready.height.toNat ≤ ready.cfg.imgCap ∧ ((0x00000003#32).extractLsb' 0 15).toNat ≤ 3 ∧
    (∀ t ∈ [Turn.host, .codec], t ≠ .reset) ∧ (∀ op ∈ [HostOp.wait, .outRead 0], op.inMap ready.cfg = true) := by decide

/-- Accept, drop and error. -/
theorem witness_ConversionCommandsLeaveTheRestUnchanged :
    exec (.convRm (some 127)) ready = .next busy ∧ exec (.convRm none) busy = .next (dropCommand busy) ∧
    (∃ u, exec (.convCs none) (loaded 0 8 []) = .next u ∧ u.status.busy = false) :=
  ⟨next_of_result (by decide), next_of_result (by decide), issue (some (.columnSerpentine, 127)) (loaded 0 8 []),
    next_of_result (by decide), by decide⟩

/-- The hypotheses of the four conversion statements: a ready state with an empty schedule; a bad one. -/
theorem witness_ConversionRule :
    thresholdFits (some 128) = true ∧ ready.readyToConvert ∧ ready.schedule = [] ∧
    (loaded 2 10 imageB).readyToConvert ∧ (loaded 0 8 []).status.busy = false ∧ (loaded 0 8 []).badExtents := by decide

/-- The boundary of the four conversion statements: after the 2 by 10 image of `stale` the machine is ready to convert a 3
by 2 image; BIN cell `W*H` = 6 and OUT cell 2, at OUT_LEN for ColumnSerpentine, hold what the conversion before left. -/
def stale : State :=
  { complete (running 2 10 imageB .rowMajor 127) with width := 3, height := 2 }

theorem witness_ConversionRule_at_the_boundary :
    stale.readyToConvert ∧ stale.schedule = [] ∧ stale.bin.read 6 = some 0 ∧ stale.out.read 2 = some 0x01 ∧
    (complete (issue (some (.columnSerpentine, 127)) stale)).outLen = 2 ∧
    (complete (issue (some (.columnSerpentine, 127)) stale)).bin.read 6 = some 0 ∧
    (complete (issue (some (.columnSerpentine, 127)) stale)).out.read 2 = some 0x01 := by decide

/-- Also CompleteWritesExactlyTheResultCells: the codec's turn, and the last pixel and byte. -/
theorem witness_CompleteStoresTheConversionOfTheLatchedRequest :
    nextTurn busy = some .codec ∧ busy.status.busy = true ∧ busy.schedule = [] ∧
    (1 < busy.reqH.toNat ∧ 2 < busy.reqW.toNat) ∧ 2 < finished.outLen.toNat := by decide

/-- Two machines with different pasts, and two different words of the same command (V-ENC-6 and default); both issues are
accepted, the second with a host that reads, waits, drops a command and writes a cell beyond the image during BUSY. -/
theorem witness_OutcomeDependsOnlyOnImageModeAndThreshold :
    ready.status.busy = false ∧ finished.status.busy = false ∧
    (issue (some (.columnMajor, 127)) ready).status.busy = true ∧
    (issue (some (.columnMajor, 127)) ready).undisturbed ∧
    (issue (some (.columnMajor, 127))
      { finished with
        program := [.outRead 0, .wait, .regWrite 0x00 4, .imgWrite 6 1, .imgWrite 0 1]
        schedule := [.host, .host, .host, .host] }).undisturbed ∧
    ready.cfg = finished.cfg ∧ ready.width = finished.width ∧ ready.height = finished.height ∧
    (∀ a < ready.width.toNat * ready.height.toNat, imgCell ready a = imgCell finished a) ∧
    (0x007F8001#32).extractLsb' 0 15 = (0x12340001#32).extractLsb' 0 15 ∧
    wordThreshold 0x007F8001#32 = wordThreshold 0x12340001#32 := by decide

theorem witness_BusyEndsInDoneUnlessResetComesFirst :
    busy.status.busy = true ∧ (∀ t ∈ [Turn.host, .host, .codec], t ≠ .reset) ∧
    (∀ op ∈ [HostOp.regWrite 0x00 4, .wait], op.inMap busy.cfg = true) := by decide

/-- ImgReadReturnsTheLastSampleWritten and ResultReadsAreExactOutsideBusy: the last cell, in both phases. -/
theorem witness_ResultReadsAreExactOutsideBusy :
    19 < finished.cfg.imgCap ∧ finished.status.busy = false ∧ 19 < busy.cfg.imgCap ∧ busy.status.busy = true := by decide

/-- Address `IMG_CAP`, and the offsets 0x24 and 0x02 of program list P6. -/
theorem witness_StepRefusesExactlyAccessesOutsideTheMap :
    nextTurn { ready with program := [.outRead 20] } = some .host ∧ (HostOp.outRead 20).inMap ready.cfg = false ∧
    (HostOp.outRead 19).inMap ready.cfg = true ∧ (HostOp.regRead 0x24).inMap ready.cfg = false ∧
    (HostOp.regRead 0x02).inMap ready.cfg = false ∧ (HostOp.regWrite 0x20 0).inMap ready.cfg = true := by decide

theorem witness_WaitEndsOnlyWhenBusyReadsZero :
    nextTurn { busy with program := [.wait], schedule := [.host] } = some .host ∧
    nextTurn { finished with program := [.wait] } = some .host := by decide

/-- A write to the last image cell, one beyond the image, and a cell left alone. -/
theorem witness_RacedSampleIsTheOldOrAWrittenValue :
    busy.status.busy = true ∧ busy.raced = [] ∧ (5, (0 : Byte)) ∈ [(5, (0 : Byte)), (6, 1)] ∧
    (storeSamples [(5, 0), (6, 1)] busy).raced = [(5, some 255)] := by decide

theorem witness_HazardFreeReadReturnsAWrittenResult :
    finished.Inv ∧ 5 < finished.cfg.imgCap ∧ finished.hazardFree (.outRead 2) = true ∧
    finished.hazardFree (.binRead 5) = true ∧ finished.hazardFree (.outRead 3) = false :=
  ⟨finished_inv, by decide⟩

/-- The last cell of the image unwritten, and the same with an illegal mode (program P4's `WR CMD, 4`) and oversize: only
the first runs into the hazard. Then a written image. -/
theorem witness_UnwrittenImageHazardIsThatOfAConversion :
    Hazard.imageNotWritten.arises (loaded 3 2 [1, 2, 3, 4, 5]) (.regWrite 0x00 3) = true ∧
    (loaded 3 2 [1, 2, 3, 4, 5]).hazardFree (.regWrite 0x00 4) = true ∧
    (loaded 3 7 []).hazardFree (.regWrite 0x00 3) = true ∧
    ready.hazardFree (.regWrite 0x00 3) = true ∧ (issue (some (.columnSerpentine, 127)) ready).status.busy = true := by
  decide

theorem witness_ResetEventClearsTheBlockInAnyState :
    { busy with schedule := [Turn.reset, .host] }.schedule = .reset :: [.host] := by decide

/-- StatusReadsOneOfSevenValues and RegisterReadsAreExactDuringBusy. -/
theorem witness_RegisterReadsAreExactDuringBusy : (storeSample 5 0 busy).Inv ∧ (storeSample 5 0 busy).status.busy = true :=
  ⟨raced_inv, by decide⟩

/-- PhaseChangesOnlyAsRule12Allows and StepKeepsTheInvariant: a state with the invariant whose step is `Complete`, and one
with nothing to do. -/
theorem witness_StepKeepsTheInvariant :
    (storeSample 5 0 busy).Inv ∧ step (storeSample 5 0 busy) = .next (complete (storeSample 5 0 busy)) ∧
    finished.Inv ∧ step finished = .next finished :=
  ⟨raced_inv, rfl, finished_inv, rfl⟩

theorem witness_StepKeepsOutInAgreementWithBin :
    finished.Inv ∧ finished.outAgreesWithBin ∧ step finished = .next finished :=
  ⟨finished_inv, finished_agrees, rfl⟩

/-- The four kinds of change: WIDTH, HEIGHT, IMG, the latches. -/
theorem witness_InputsChangeOnlyByTheHostsWrites :
    step { ready with program := [.regWrite 0x08 5] } = .next { ready with width := 5 } ∧
    step { ready with program := [.regWrite 0x0C 5] } = .next { ready with height := 5 } ∧
    step { ready with program := [.imgWrite 19 7] } = .next { ready with img := ready.img ++ [(19, 7)] } ∧
    step { ready with program := [.regWrite 0x00 0x007F8000] } = .next busy ∧
    nextTurn { ready with program := [.regWrite 0x08 5] } ≠ some .reset :=
  ⟨next_of_result (by decide), next_of_result (by decide), next_of_result (by decide), next_of_result (by decide),
    by decide⟩

/-- OnlyCompleteWritesBinAndOut and ResultStaysReadableUntilTheNextCommand. -/
theorem witness_ResultStaysReadableUntilTheNextCommand :
    finished.status.phase = .done ∧ step finished = .next finished ∧ nextTurn finished ≠ some .reset ∧
    nextTurn finished ≠ some .codec ∧ finished.program = [] :=
  ⟨by decide, next_of_result (by decide), by decide⟩

theorem witness_ErrorStaysUntilTheNextCommand :
    failed.status.phase = .err ∧ step failed = .next failed ∧ nextTurn failed ≠ some .reset ∧
    failed.program = [] :=
  ⟨by decide, next_of_result (by decide), by decide⟩

end Sys2Proof.Tests
end

/-! ## Every step keeps the invariant of the machine (O56)

The layer of facts comes first: the words of STATUS, the memories, the extents and lengths of a conversion. Then one
lemma per operation says that it keeps `State.Inv`, and `step_cases` puts them together. -/

namespace Sys2Proof.Machine

/-! ### STATUS stays legal (rule R15) -/

theorem Status.legal_dropped {st : Status} (h : st.legal) (hb : st.busy = true) : st.dropped.legal := by
  obtain ⟨hbd, hbe, hde, hcode, hnocode, -⟩ := h
  exact ⟨hbd, hbe, hde, hcode, hnocode, fun _ => .inl hb⟩

/-- The clearing that every CMD write with BUSY = 0 begins with leaves nothing of the old STATUS (rule R120). -/
theorem Status.cleared_of_not_busy {st : Status} (hb : st.busy = false) : st.cleared = Status.zero := by
  simp [Status.cleared, Status.zero, hb]

theorem Status.legal_completed {st : Status} (h : st.legal) (hb : st.busy = true) : st.completed.legal := by
  obtain ⟨-, hbe, -, hcode, hnocode, -⟩ := h
  have he : st.err = false := by simpa [hb] using hbe
  simp [Status.legal, he, hnocode he]

/-! ### Memories stay below the capacity -/

theorem Memory.below_write {w cap a : Nat} {m : Memory w} (h : m.below cap) (ha : a < cap) (v : BitVec w) :
    (m.write a v).below cap := by
  intro p hp
  rcases Memory.mem_write hp with rfl | hp
  · exact ha
  · exact h p hp

theorem Memory.below_writeAll {w cap : Nat} {m : Memory w} (h : m.below cap) {cs : List (Nat × BitVec w)}
    (hcs : ∀ a ∈ cs.map Prod.fst, a < cap) : (m.writeAll cs).below cap := by
  intro p hp
  rcases Memory.mem_writeAll hp with hp | hp
  · exact hcs _ (List.mem_map_of_mem hp)
  · exact h p hp

/-! ### The extents and the length of a conversion (rules R96, R109) -/

/-- Every mode keeps the extents or exchanges them. -/
theorem transform_extents (mode : ScanMode) (b : Matrix) :
    ((transform mode b).rows = b.rows ∧ (transform mode b).cols = b.cols) ∨
    ((transform mode b).rows = b.cols ∧ (transform mode b).cols = b.rows) := by
  cases mode
  case rowMajor | rowSerpentine => exact .inl ⟨rfl, rfl⟩
  case columnMajor | columnSerpentine => exact .inr ⟨rfl, rfl⟩

/-- A strip has at least one row, so there are no more strips than rows. -/
theorem stripCount_le (rows : Nat) : stripCount rows ≤ rows := by
  rw [stripCount_eq]; omega

/-- The transformed matrix has the extents of the request, in one order or the other. -/
theorem requestedConversion_extents (s : State) :
    ((requestedConversion s).transformed.rows = s.reqH.toNat ∧
      (requestedConversion s).transformed.cols = s.reqW.toNat) ∨
    ((requestedConversion s).transformed.rows = s.reqW.toNat ∧
      (requestedConversion s).transformed.cols = s.reqH.toNat) :=
  transform_extents s.reqMode (requestedConversion s).binary

theorem requestedConversion_length (s : State) : (requestedConversion s).bytes.length =
    stripCount (requestedConversion s).transformed.rows * (requestedConversion s).transformed.cols :=
  pack_length _

/-- A conversion yields no more bytes than the image has pixels. -/
theorem requestedConversion_length_le (s : State) :
    (requestedConversion s).bytes.length ≤ s.reqW.toNat * s.reqH.toNat := by
  rw [requestedConversion_length]
  obtain ⟨hr, hc⟩ | ⟨hr, hc⟩ := requestedConversion_extents s <;> rw [hr, hc]
  · exact (Nat.mul_le_mul_right _ (stripCount_le _)).trans_eq (Nat.mul_comm _ _)
  · exact Nat.mul_le_mul_right _ (stripCount_le _)

/-- Every cell below `w * h` is that of a pixel (rule R42). -/
theorem exists_sampleAddress {w h a : Nat} (ha : a < w * h) : ∃ y < h, ∃ x < w, a = sampleAddress w y x := by
  have hw : 0 < w := Nat.pos_of_mul_pos_right (Nat.zero_lt_of_lt ha)
  exact ⟨a / w, Nat.div_lt_of_lt_mul ha, a % w, Nat.mod_lt a hw, (Nat.div_add_mod' a w).symm⟩

/-! ### Each operation keeps the invariant -/

section
variable {s : State}

/-- The invariant speaks neither of the extents the host sets nor of what is outside the block. -/
theorem inv_frame (h : s.Inv) (width height : Half) (program : List HostOp) (schedule : List Turn)
    (replies : List Reply) (draws : Nat) :
    { s with width, height, program, schedule, replies, draws : State }.Inv :=
  { h with }

theorem inv_storeSample (h : s.Inv) {a : Nat} (ha : a < s.cfg.imgCap) (v : Byte) : (storeSample a v s).Inv :=
  { h with
    imgWf := Memory.wf_write h.imgWf a v
    imgBelow := Memory.below_write h.imgBelow ha v
    raced := by
      intro p hp
      simp only [storeSample_raced, racedAfterWrite] at hp
      split at hp
      case isTrue hrace =>
        rcases List.mem_cons.1 hp with rfl | hp
        · exact hrace
        · exact h.raced p hp
      case isFalse => exact h.raced p hp }

theorem inv_dropCommand (h : s.Inv) (hb : s.status.busy = true) : (dropCommand s).Inv :=
  { h with status := Status.legal_dropped h.status hb }

/-- What a CMD write with BUSY = 0 leaves before it reports or accepts: no outcome, no race, STATUS 0 (rule R120). -/
theorem inv_clearOutcome (h : s.Inv) (hb : s.status.busy = false) : (clearOutcome s).Inv :=
  { h with
    status := by rw [clearOutcome_status, Status.cleared_of_not_busy hb]; decide
    busyRequest := by simp [hb]
    notDone := fun _ => ⟨rfl, rfl, rfl, rfl, rfl⟩
    doneResult := by simp
    doneBin := by simp
    doneOut := by simp
    raced := fun p hp => absurd (h.raced p hp).1 (by simp [hb]) }

/-- A refused command has one of the two codes the block reports (rules R144, R147). -/
theorem inv_refused (h : s.Inv) (hb : s.status.busy = false) {e : CommandError}
    (he : e = .invalidImage ∨ e = .unsupportedMode) : (raiseError e (clearOutcome s)).Inv :=
  { inv_clearOutcome h hb with
    status := by
      rw [raiseError_status, clearOutcome_status, Status.cleared_of_not_busy hb]
      rcases he with rfl | rfl <;> decide }

/-- An accepted request has passed the checks of rule R142 (rule R145). -/
theorem inv_accepted (h : s.Inv) (hb : s.status.busy = false) (hgood : ¬ s.badExtents) (mode : ScanMode) (thr : Half) :
    (acceptRequest mode thr (clearOutcome s)).Inv :=
  { inv_clearOutcome h hb with
    status := by
      rw [acceptRequest_status, clearOutcome_status, Status.cleared_of_not_busy hb]; decide
    busyRequest := by
      intro _
      simp only [State.badExtents, not_or, Nat.not_lt] at hgood
      obtain ⟨hw, hh, hcap⟩ := hgood
      exact ⟨Nat.mul_pos (Nat.pos_of_ne_zero hw) (Nat.pos_of_ne_zero hh), hcap⟩
    raced := nofun }

theorem inv_issue (h : s.Inv) (request : Option (ScanMode × Half)) : (issue request s).Inv := by
  obtain ⟨hb, hu⟩ | ⟨hb, -, hu⟩ | ⟨hb, -, -, hu⟩ | ⟨hb, hgood, mode, thr, -, hu⟩ := issue_cases request s <;> rw [hu]
  · exact inv_dropCommand h hb
  · exact inv_refused h hb (.inl rfl)
  · exact inv_refused h hb (.inr rfl)
  · exact inv_accepted h hb hgood mode thr

theorem inv_resetEvent (h : s.Inv) : (resetEvent s).Inv where
  cfg := h.cfg
  imgWf := List.Pairwise.nil
  binWf := List.Pairwise.nil
  outWf := List.Pairwise.nil
  imgBelow := nofun
  binBelow := nofun
  outBelow := nofun
  status := by rw [resetEvent_status]; decide
  busyRequest := nofun
  notDone := fun _ => ⟨rfl, rfl, rfl, rfl, rfl⟩
  doneResult := nofun
  doneBin := nofun
  doneOut := nofun
  raced := nofun

/-! ### `Complete` keeps the invariant -/

/-- BIN after `Complete`: the bit of every pixel at its cell (rules R42, R125). -/
theorem read_bin_complete (s : State) {y x : Nat} (hy : y < s.reqH.toNat) (hx : x < s.reqW.toNat) :
    (complete s).bin.read (sampleAddress s.reqW.toNat y x) =
      some (sampleBit (requestedSample s y x) s.reqThr.toInt) :=
  read_writeAll_binCells s.bin (requestedConversion s).binary hy hx

/-- OUT after `Complete`: byte `i` at cell `i` (rules R43, R125). -/
theorem read_out_complete (s : State) {i : Nat} (hi : i < (requestedConversion s).bytes.length) :
    (complete s).out.read i = some (requestedConversion s).bytes[i] :=
  (read_writeAll_outCells s.out _ hi).trans (List.getElem?_eq_getElem hi)

/-- OUT_LEN is the number of bytes without truncation, since the capacity is below 2^32 (rule R5). -/
theorem complete_outLen_toNat (h : s.Inv) (hb : s.status.busy = true) :
    (complete s).outLen.toNat = (requestedConversion s).bytes.length := by
  have hlen := requestedConversion_length_le s
  have harea := (h.busyRequest hb).2
  have hcap := h.cfg.2
  rw [complete_outLen, BitVec.toNat_ofNat, Nat.mod_eq_of_lt (by omega)]

/-- The result registers after `Complete` describe the result (rules R18 to R22). -/
theorem resultDescribed_complete (h : s.Inv) (hb : s.status.busy = true) : (complete s).resultDescribed := by
  obtain ⟨hpos, hcap⟩ := h.busyRequest hb
  have hlen := (complete_outLen_toNat h hb).trans (requestedConversion_length s)
  obtain ⟨hr, hc⟩ | ⟨hr, hc⟩ := requestedConversion_extents s
  · exact ⟨hpos, hcap, .inl ⟨by simp [hr], by simp [hc]⟩, by rw [hlen]; simp [hr, hc]⟩
  · exact ⟨hpos, hcap, .inr ⟨by simp [hr], by simp [hc]⟩, by rw [hlen]; simp [hr, hc]⟩

theorem inv_complete (h : s.Inv) (hb : s.status.busy = true) : (complete s).Inv := by
  obtain ⟨-, hcap⟩ := h.busyRequest hb
  have hbin : (requestedConversion s).binary.binCells.map Prod.fst = List.range (s.reqW.toNat * s.reqH.toNat) := by
    rw [binCells_addresses, Nat.mul_comm]; rfl
  have hlen := requestedConversion_length_le s
  exact { h with
    binWf := (complete_memories_wf s h.binWf h.outWf).1
    outWf := (complete_memories_wf s h.binWf h.outWf).2
    binBelow := Memory.below_writeAll h.binBelow fun a ha => by
      rw [hbin, List.mem_range] at ha; exact ha.trans_le hcap
    outBelow := Memory.below_writeAll h.outBelow fun i hi => by
      rw [outCells_addresses, List.mem_range] at hi; exact (hi.trans_le hlen).trans_le hcap
    status := Status.legal_completed h.status hb
    busyRequest := nofun
    notDone := nofun
    doneResult := fun _ => resultDescribed_complete h hb
    doneBin := fun _ a ha => by
      obtain ⟨y, hy, x, hx, rfl⟩ := exists_sampleAddress ha
      exact Option.isSome_of_eq_some (read_bin_complete s hy hx)
    doneOut := fun _ i hi => by
      rw [complete_outLen_toNat h hb] at hi
      exact Option.isSome_of_eq_some (read_out_complete s hi)
    raced := nofun }

/-! ### The steps of the agents -/

theorem inv_hostOp (h : s.Inv) {op : HostOp} {u : State} (hop : hostOp op s = .next u) : u.Inv := by
  obtain ⟨r, rfl⟩ | ⟨r, -, rfl⟩ | ⟨c, request, -, -, rfl⟩ | ⟨v, -, rfl⟩ | ⟨v, -, rfl⟩ | rfl | ⟨a, v, -, ha, rfl⟩ |
    ⟨r, -, -, rfl⟩ := hostOp_cases hop
  case inr.inr.inl => exact inv_issue h request
  case inr.inr.inr.inr.inr.inr.inl => exact inv_storeSample h ha v
  all_goals exact inv_frame h ..

theorem inv_step (h : s.Inv) {u : State} (hstep : step s = .next u) : u.Inv := by
  have ht : (takeTurn s).Inv := inv_frame h ..
  obtain ⟨-, rfl⟩ | ⟨hn, rfl⟩ | ⟨-, rfl⟩ | ⟨-, op, rest, -, hop⟩ := step_cases hstep
  · exact inv_resetEvent ht
  · have hb : s.status.busy = true := nextTurn_codec hn
    exact inv_complete ht hb
  · exact ht
  · exact inv_hostOp (inv_frame ht ..) hop

end

/-- Settles O56: `inv_step`, one case for each agent that can move. -/
theorem stepKeepsTheInvariant : Obligations.StepKeepsTheInvariant := fun _ _ h hstep => inv_step h hstep

end Sys2Proof.Machine

/-! ## The outcome depends only on image, mode and threshold (O35)

A command word matters only by its mode and its effective threshold (`issueWord_eq_requestOf`). While BUSY = 1 an
undisturbed host keeps the request (`SameRequest`), so the run ends with `complete` in a state that still holds the
request of accept (`exists_doneAfter`). Two states that hold the same request store the same result (`complete_congr`). -/

namespace Sys2Proof.Machine

/-! ### The request of a command word (rules R60 to R64) -/

/-- What a command word asks for, by its MODE field and its effective threshold. -/
def requestOf (mode : BitVec 15) (thr : Int) : Option (ScanMode × Half) :=
  if mode = 0 then some (.rowMajor, BitVec.ofInt 16 thr)
  else if mode = 1 then some (.columnMajor, BitVec.ofInt 16 thr)
  else if mode = 2 then some (.rowSerpentine, BitVec.ofInt 16 thr)
  else if mode = 3 then some (.columnSerpentine, BitVec.ofInt 16 thr)
  else none

/-- The latch holds the threshold as rule R62 reads it from the word. -/
theorem thresholdLatch_operand (c : Word) :
    thresholdLatch (thresholdOperand c) = BitVec.ofInt 16 (wordThreshold c) := by
  unfold thresholdLatch thresholdOperand wordThreshold tvField thrField
  split <;> rfl

/-- The issue of a word is the issue of its request, which its MODE field and its effective threshold determine. -/
theorem issueWord_eq_requestOf (c : Word) (s : State) :
    issueWord c s = .next (issue (requestOf (c.extractLsb' 0 15) (wordThreshold c)) s) := by
  change issueWord c s = .next (issue (requestOf (modeField c) (wordThreshold c)) s)
  unfold issueWord decode requestOf
  rw [← thresholdLatch_operand]
  split_ifs <;> rfl

/-! ### The issue of one request on two machines (rule R120) -/

/-- While BUSY = 1 every command is dropped (rule R152). -/
theorem issue_of_busy (request : Option (ScanMode × Half)) {s : State} (hb : s.status.busy = true) :
    issue request s = dropCommand s := by
  simp [issue, hb]

/-- With BUSY = 0 the STATUS after the issue depends on the request and on the condition of rule R142 only. -/
theorem issue_status_of_not_busy (request : Option (ScanMode × Half)) {s : State} (hb : s.status.busy = false) :
    (issue request s).status =
      if imageInvalid s then Status.zero.errored .invalidImage
      else if request.isSome then Status.zero.accepted else Status.zero.errored .unsupportedMode := by
  have hz : s.status.cleared = Status.zero := Status.cleared_of_not_busy hb
  unfold issue
  rw [if_neg (by simp [hb])]
  split
  · rw [raiseError_status, clearOutcome_status, hz]
  · cases request with
    | none => rw [raiseError_status, clearOutcome_status, hz]; rfl
    | some r => rw [acceptRequest_status, clearOutcome_status, hz]; rfl

/-- An issue that turns BUSY on has accepted its request. -/
theorem issue_accepts {request : Option (ScanMode × Half)} {s : State} (hb : s.status.busy = false)
    (hbusy : (issue request s).status.busy = true) :
    ∃ mode thr, request = some (mode, thr) ∧ issue request s = acceptRequest mode thr (clearOutcome s) := by
  obtain ⟨hb', -⟩ | ⟨-, -, hu⟩ | ⟨-, -, -, hu⟩ | ⟨-, -, mode, thr, hr, hu⟩ := issue_cases request s
  · simp [hb] at hb'
  · simp [hu, hb] at hbusy
  · simp [hu, hb] at hbusy
  · exact ⟨mode, thr, hr, hu⟩

/-! ### Two states that hold the same running request -/

/-- The two states hold the same request: the latches, the samples of the image, what has been raced, and STATUS but
for OVR. -/
structure SameRequest (s t : State) : Prop where
  cfg : s.cfg = t.cfg
  status : { s.status with ovr := false } = { t.status with ovr := false }
  reqW : s.reqW = t.reqW
  reqH : s.reqH = t.reqH
  reqMode : s.reqMode = t.reqMode
  reqThr : s.reqThr = t.reqThr
  raced : s.raced = t.raced
  imgCell : ∀ a < s.reqW.toNat * s.reqH.toNat, imgCell s a = Machine.imgCell t a

section
variable {s t u : State}

theorem SameRequest.symm (h : SameRequest s t) : SameRequest t s where
  cfg := h.cfg.symm
  status := h.status.symm
  reqW := h.reqW.symm
  reqH := h.reqH.symm
  reqMode := h.reqMode.symm
  reqThr := h.reqThr.symm
  raced := h.raced.symm
  imgCell a ha := (h.imgCell a (by rwa [h.reqW, h.reqH])).symm

theorem SameRequest.trans (h : SameRequest s t) (h' : SameRequest t u) : SameRequest s u where
  cfg := h.cfg.trans h'.cfg
  status := h.status.trans h'.status
  reqW := h.reqW.trans h'.reqW
  reqH := h.reqH.trans h'.reqH
  reqMode := h.reqMode.trans h'.reqMode
  reqThr := h.reqThr.trans h'.reqThr
  raced := h.raced.trans h'.raced
  imgCell a ha := (h.imgCell a ha).trans (h'.imgCell a (by rwa [← h.reqW, ← h.reqH]))

theorem SameRequest.busy (h : SameRequest s t) : s.status.busy = t.status.busy := by
  simpa using congrArg Status.busy h.status

/-- The extents the host sets, what is outside the block and OVR are no part of the request. -/
theorem sameRequest_frame (s : State) (ovr : Bool) (width height : Half) (program : List HostOp)
    (schedule : List Turn) (replies : List Reply) (draws : Nat) :
    SameRequest s
      { s with status := { s.status with ovr }, width, height, program, schedule, replies, draws } :=
  ⟨rfl, rfl, rfl, rfl, rfl, rfl, rfl, fun _ _ => rfl⟩

/-- Rule R169: a write to a cell the running conversion does not read is harmless. -/
theorem sameRequest_storeSample {a : Nat} (ha : s.reqW.toNat * s.reqH.toNat ≤ a) (v : Byte) :
    SameRequest s (storeSample a v s) where
  cfg := rfl
  status := rfl
  reqW := rfl
  reqH := rfl
  reqMode := rfl
  reqThr := rfl
  raced := by rw [storeSample_raced, racedAfterWrite, if_neg (by omega)]
  imgCell b hb := by rw [imgCell_storeSample, if_neg (by omega)]

/-! ### What a host transaction keeps while BUSY = 1 -/

theorem hostOp_next_of_inMap {op : HostOp} (hmap : op.inMap s.cfg = true) : ∃ u, hostOp op s = .next u := by
  cases h : hostOp op s with
  | next u => exact ⟨u, rfl⟩
  | fault r => cases r
  | refused r => simpa [hmap] using (hostOp_refused_iff op s).1 ⟨r, h⟩

/-- Everything a harmless transaction can do while BUSY = 1. Its line is used up, but for a `WAIT` that goes on waiting
(rule R69), and only a CMD write changes STATUS (rule R152). -/
theorem hostOp_while_busy {op : HostOp} (hb : s.status.busy = true)
    (hsafe : Hazard.imageWriteWhileBusy.arises s op = false) (h : hostOp op s = .next u) :
    SameRequest s u ∧ u.schedule = s.schedule ∧ (u.program = s.program ∨ u.program = op :: s.program) ∧
      (u.status = s.status ∨ ∃ c, op = .regWrite 0x00 c) := by
  obtain ⟨r, rfl⟩ | ⟨r, -, rfl⟩ | ⟨c, request, rfl, -, rfl⟩ | ⟨v, -, rfl⟩ | ⟨v, -, rfl⟩ | rfl | ⟨a, v, rfl, -, rfl⟩ |
    ⟨r, rfl, -, rfl⟩ := hostOp_cases h
  case inr.inr.inl =>
    rw [issue_of_busy request hb]
    exact ⟨sameRequest_frame s .., rfl, .inl rfl, .inr ⟨c, rfl⟩⟩
  case inr.inr.inr.inr.inr.inr.inl =>
    have ha : s.reqW.toNat * s.reqH.toNat ≤ a := by simpa [Hazard.arises, hb] using hsafe
    exact ⟨sameRequest_storeSample ha v, rfl, .inl rfl, .inl rfl⟩
  case inr.inr.inr.inr.inr.inr.inr => exact ⟨sameRequest_frame s .., rfl, .inr rfl, .inl rfl⟩
  all_goals exact ⟨sameRequest_frame _ .., rfl, .inl rfl, .inl rfl⟩

end

/-! ### A run while BUSY = 1 ends in `Complete` (log 7) -/

/-- The lines the host can make before the schedule is used up. -/
def State.linesInReach (s : State) : List HostOp := s.program.take s.schedule.length

section
variable {s u : State}

/-- A machine with BUSY = 1 and no reset ahead is the codec's to move, or the host's where the schedule says so. -/
theorem nextTurn_while_busy (hb : s.status.busy = true) (hreset : ∀ t ∈ s.schedule, t ≠ .reset) :
    nextTurn s = some .codec ∨ (nextTurn s = some .host ∧ ∃ turns, s.schedule = .host :: turns) := by
  have hdefault : defaultTurn s = some .codec := by simp [defaultTurn, hb]
  unfold nextTurn
  rw [hdefault]
  split
  case h_1 turns hs => exact absurd rfl (hreset .reset (by simp [hs]))
  case h_2 turns hs =>
    split
    · exact .inl rfl
    · exact .inr ⟨rfl, turns, hs⟩
  case h_3 => exact .inl rfl

/-- One step of an undisturbed machine with BUSY = 1: `Complete`, or a transaction that keeps the request and uses up
one entry of the schedule. -/
theorem step_while_busy (hb : s.status.busy = true) (hd : s.undisturbed) :
    step s = .next (complete (takeTurn s)) ∨
    ∃ u, step s = .next u ∧ SameRequest s u ∧ (∃ t, s.schedule = t :: u.schedule) ∧
      u.linesInReach ⊆ s.linesInReach ∧
      ((∀ c, .regWrite 0x00 c ∉ s.linesInReach) → u.status = s.status) := by
  obtain ⟨hreset, hlines⟩ := hd
  obtain hn | ⟨hn, turns, hs⟩ := nextTurn_while_busy hb hreset
  · exact .inl (step_of_codec hn)
  · right
    obtain ⟨op, rest, hp⟩ := nextTurn_host hn
    have hreach : s.linesInReach = op :: rest.take turns.length := by simp [State.linesInReach, hs, hp]
    obtain ⟨hmap, hsafe⟩ := hlines op (by rw [← State.linesInReach, hreach]; exact List.mem_cons_self)
    have hbefore : SameRequest s (setProgram rest (takeTurn s)) := sameRequest_frame s ..
    have hb' : (setProgram rest (takeTurn s)).status.busy = true := hb
    obtain ⟨u, hop⟩ := hostOp_next_of_inMap (s := setProgram rest (takeTurn s)) hmap
    obtain ⟨hsame, hsched, hprog, hstatus⟩ := hostOp_while_busy hb' hsafe hop
    have hturns : u.schedule = turns := hsched.trans (by simp [hs])
    refine ⟨u, (step_of_host hn hp).trans hop, hbefore.trans hsame, ⟨.host, by rw [hs, hturns]⟩, ?_, fun hcmd => ?_⟩
    · rw [hreach, State.linesInReach, hturns]
      obtain hprog | hprog := hprog <;> rw [hprog]
      · exact List.subset_cons_self op _
      · exact List.take_subset_take_left (op :: rest) (Nat.le_succ turns.length)
    · obtain hst | ⟨c, rfl⟩ := hstatus
      · exact hst
      · exact absurd (by rw [hreach]; exact List.mem_cons_self) (hcmd c)

/-- Whether a transaction disturbs the conversion depends on the running request only. -/
theorem arises_imageWriteWhileBusy_congr (h : SameRequest s u) (op : HostOp) :
    Hazard.imageWriteWhileBusy.arises s op = Hazard.imageWriteWhileBusy.arises u op := by
  cases op
  case imgWrite a v => simp only [Hazard.arises, h.busy, h.reqW, h.reqH]
  all_goals rfl

/-- A step keeps an undisturbed machine undisturbed. -/
theorem undisturbed_of_step (hd : s.undisturbed) (hsame : SameRequest s u) (hsched : ∃ t, s.schedule = t :: u.schedule)
    (hreach : u.linesInReach ⊆ s.linesInReach) : u.undisturbed := by
  obtain ⟨t, hsched⟩ := hsched
  obtain ⟨hreset, hlines⟩ := hd
  refine ⟨fun t' ht' => hreset t' (by rw [hsched]; exact List.mem_cons_of_mem t ht'), fun op hop => ?_⟩
  rw [← hsame.cfg, ← arises_imageWriteWhileBusy_congr hsame]
  exact hlines op (hreach hop)

theorem doneAfter_one (hb : s.status.busy = true) (hstep : step s = .next u) (hdone : u.status.done = true) :
    State.doneAfter 1 s u := by
  refine ⟨by simp [runSteps, hstep], hdone, fun j hj => ⟨s, ?_, hb⟩⟩
  obtain rfl : j = 0 := by omega
  rfl

theorem doneAfter_succ {k : Nat} {v : State} (hb : s.status.busy = true) (hstep : step s = .next u)
    (h : State.doneAfter k u v) : State.doneAfter (k + 1) s v := by
  obtain ⟨hrun, hdone, hbefore⟩ := h
  refine ⟨by simpa [runSteps, hstep] using hrun, hdone, fun j hj => ?_⟩
  cases j with
  | zero => exact ⟨s, rfl, hb⟩
  | succ j => simpa [runSteps, hstep] using hbefore j (by omega)

/-- An undisturbed run from BUSY ends with `Complete` in a state that holds the request the run began with. -/
theorem exists_doneAfter {s : State} (hb : s.status.busy = true) (hd : s.undisturbed) :
    ∃ k w, k ≤ s.schedule.length + 1 ∧ State.doneAfter k s (complete w) ∧ SameRequest s w ∧
      ((∀ c, .regWrite 0x00 c ∉ s.linesInReach) → w.status = s.status) := by
  obtain hstep | ⟨u, hstep, hsame, ⟨t, hsched⟩, hreach, hstatus⟩ := step_while_busy hb hd
  · exact ⟨1, takeTurn s, by omega, doneAfter_one hb hstep rfl, sameRequest_frame s .., fun _ => rfl⟩
  · have hdu : u.undisturbed := undisturbed_of_step hd hsame ⟨t, hsched⟩ hreach
    obtain ⟨k, w, hk, hdone, hsame', hstatus'⟩ := exists_doneAfter (hsame.busy ▸ hb) hdu
    refine ⟨k + 1, w, by rw [hsched, List.length_cons]; omega, doneAfter_succ hb hstep hdone, hsame.trans hsame',
      fun hcmd => ?_⟩
    exact (hstatus' fun c hc => hcmd c (hreach hc)).trans (hstatus hcmd)
termination_by s.schedule.length
decreasing_by simp [hsched]

end

/-! ### The same request gives the same result (rules R2, R125) -/

/-- Transforming looks at nothing outside the extents. -/
theorem transform_same (mode : ScanMode) {a b : Matrix} (h : a.Same b) :
    (transform mode a).Same (transform mode b) := by
  obtain ⟨hr, hc, hbits⟩ := h
  exact ⟨by rw [transform_rows, transform_rows, hr, hc], by rw [transform_cols, transform_cols, hr, hc],
    transform_congr mode hr hc hbits⟩

section
variable {s t : State}

theorem requestedSample_congr (h : SameRequest s t) (hraced : s.raced = []) {y x : Nat} (hy : y < s.reqH.toNat)
    (hx : x < s.reqW.toNat) : requestedSample s y x = requestedSample t y x := by
  have ha : sampleAddress s.reqW.toNat y x < s.reqW.toNat * s.reqH.toNat :=
    (sampleAddress_lt hy hx).trans_eq (Nat.mul_comm _ _)
  unfold requestedSample
  rw [← h.reqW, sample_of_not_raced (by simp [hraced]), sample_of_not_raced (by simp [← h.raced, hraced])]
  exact h.imgCell _ ha

theorem requestedConversion_binary_same (h : SameRequest s t) (hraced : s.raced = []) :
    (requestedConversion s).binary.Same (requestedConversion t).binary := by
  refine ⟨congrArg BitVec.toNat h.reqH, congrArg BitVec.toNat h.reqW, fun y hy x hx => ?_⟩
  change sampleBit (requestedSample s y x) s.reqThr.toInt = sampleBit (requestedSample t y x) t.reqThr.toInt
  rw [requestedSample_congr h hraced hy hx, h.reqThr]

theorem requestedConversion_transformed_same (h : SameRequest s t) (hraced : s.raced = []) :
    (requestedConversion s).transformed.Same (requestedConversion t).transformed := by
  change (transform s.reqMode _).Same (transform t.reqMode _)
  rw [← h.reqMode]
  exact transform_same s.reqMode (requestedConversion_binary_same h hraced)

theorem requestedConversion_bytes_congr (h : SameRequest s t) (hraced : s.raced = []) :
    (requestedConversion s).bytes = (requestedConversion t).bytes := by
  obtain ⟨hr, hc, hbits⟩ := requestedConversion_transformed_same h hraced
  exact pack_congr hr hc hbits

/-- Both machines have just written the cell, so what it held before does not matter. -/
theorem binCell_complete_congr (h : SameRequest s t) (hraced : s.raced = []) {a : Nat}
    (ha : a < s.reqW.toNat * s.reqH.toNat) : binCell (complete s) a = binCell (complete t) a := by
  obtain ⟨y, hy, x, hx, rfl⟩ := exists_sampleAddress ha
  have hs := read_bin_complete s hy hx
  have ht := read_bin_complete t (h.reqH ▸ hy) (h.reqW ▸ hx)
  rw [← h.reqW, ← h.reqThr, ← requestedSample_congr h hraced hy hx] at ht
  rw [binCell, binCell, hs, ht, Option.getD_some, Option.getD_some]

theorem outCell_complete_congr (h : SameRequest s t) (hraced : s.raced = []) {i : Nat}
    (hi : i < (complete s).outLen.toNat) : outCell (complete s) i = outCell (complete t) i := by
  have hbytes := requestedConversion_bytes_congr h hraced
  have hs : i < (requestedConversion s).bytes.length :=
    hi.trans_le (by rw [complete_outLen, BitVec.toNat_ofNat]; exact Nat.mod_le ..)
  have ht := read_out_complete t (hbytes ▸ hs)
  simp only [← hbytes] at ht
  rw [outCell, outCell, read_out_complete s hs, ht, Option.getD_some, Option.getD_some]

/-- Apart from OVR the two machines show the host the same registers, bytes and bits. -/
theorem complete_congr (h : SameRequest s t) (hraced : s.raced = []) :
    { (complete s).status with ovr := false } = { (complete t).status with ovr := false } ∧
    (complete s).outLen = (complete t).outLen ∧ (complete s).pkRows = (complete t).pkRows ∧
    (complete s).pkCols = (complete t).pkCols ∧ (complete s).resWidth = (complete t).resWidth ∧
    (complete s).resHeight = (complete t).resHeight ∧
    (∀ i < (complete s).outLen.toNat, outCell (complete s) i = outCell (complete t) i) ∧
    (∀ a < (complete s).resWidth.toNat * (complete s).resHeight.toNat,
      binCell (complete s) a = binCell (complete t) a) := by
  obtain ⟨hr, hc, -⟩ := requestedConversion_transformed_same h hraced
  refine ⟨congrArg Status.completed h.status, ?_, ?_, ?_, h.reqW, h.reqH,
    fun i hi => outCell_complete_congr h hraced hi, fun a ha => binCell_complete_congr h hraced ha⟩
  · rw [complete_outLen, complete_outLen, requestedConversion_bytes_congr h hraced]
  · rw [complete_pkRows, complete_pkRows, hr]
  · rw [complete_pkCols, complete_pkCols, hc]

end

/-! ### The two runs -/

/-- The two machines have the same capacity and hold the same image (rules R16, R17, R24). -/
structure SameImage (s t : State) : Prop where
  cfg : s.cfg = t.cfg
  width : s.width = t.width
  height : s.height = t.height
  imgCell : ∀ a < s.width.toNat * s.height.toNat, imgCell s a = Machine.imgCell t a

section
variable {s t : State} {request : Option (ScanMode × Half)}

/-- One command on the same image shows the same STATUS, whatever the machines held before. -/
theorem issue_status_congr (request : Option (ScanMode × Half)) (h : SameImage s t) (hs : s.status.busy = false)
    (ht : t.status.busy = false) : (issue request s).status = (issue request t).status := by
  have hinvalid : imageInvalid s = imageInvalid t := by simp only [imageInvalid, h.cfg, h.width, h.height]
  rw [issue_status_of_not_busy request hs, issue_status_of_not_busy request ht, hinvalid]

/-- Once accepted on both machines, the same command on the same image is the same request. -/
theorem sameRequest_issue (h : SameImage s t) (hs : s.status.busy = false) (ht : t.status.busy = false)
    (hbusy : (issue request s).status.busy = true) : SameRequest (issue request s) (issue request t) := by
  have hstatus := issue_status_congr request h hs ht
  obtain ⟨mode, thr, rfl, hus⟩ := issue_accepts hs hbusy
  obtain ⟨mode', thr', heq, hut⟩ := issue_accepts ht (hstatus ▸ hbusy)
  obtain ⟨rfl, rfl⟩ : mode = mode' ∧ thr = thr' := by simpa using heq
  rw [hus, hut] at hstatus ⊢
  exact ⟨h.cfg, by rw [hstatus], h.width, h.height, rfl, rfl, rfl, h.imgCell⟩

/-- What a machine that has just accepted a command, undisturbed, ends in: `Complete` of the request it accepted. -/
theorem exists_doneAfter_issue (hs : s.status.busy = false) (hbusy : (issue request s).status.busy = true)
    (hd : (issue request s).undisturbed) :
    ∃ k w, k ≤ s.schedule.length + 1 ∧ State.doneAfter k (issue request s) (complete w) ∧
      SameRequest (issue request s) w ∧ w.raced = [] ∧
      ((∀ c, .regWrite 0x00 c ∉ s.linesInReach) → (complete w).status.word = 0x02) := by
  obtain ⟨mode, thr, -, hu⟩ := issue_accepts hs hbusy
  obtain ⟨k, w, hk, hdone, hsame, hstatus⟩ := exists_doneAfter hbusy hd
  rw [hu] at hk hdone hsame hstatus ⊢
  refine ⟨k, w, hk, hdone, hsame, hsame.raced.symm, fun hcmd => ?_⟩
  rw [complete_status, hstatus hcmd, acceptRequest_status, clearOutcome_status, Status.cleared_of_not_busy hs]
  decide

end

/-- Settles O35: both machines accept the same request, both runs end with `Complete` in states that still hold it, and
what `Complete` stores depends on the request only. -/
theorem outcomeDependsOnlyOnImageModeAndThreshold : Obligations.OutcomeDependsOnlyOnImageModeAndThreshold := by
  intro c₁ c₂ s₁ s₂ hb₁ hb₂ hcfg hw hh himg hmode hthr
  have himage : SameImage s₁ s₂ := ⟨hcfg, hw, hh, himg⟩
  have hissue₁ := issueWord_eq_requestOf c₁ s₁
  have hissue₂ := issueWord_eq_requestOf c₂ s₂
  rw [← hmode, ← hthr] at hissue₂
  generalize requestOf (c₁.extractLsb' 0 15) (wordThreshold c₁) = request at hissue₁ hissue₂
  have hstatus := issue_status_congr request himage hb₁ hb₂
  refine ⟨_, _, hissue₁, hissue₂, hstatus, fun hbusy₁ hd₁ hd₂ => ?_⟩
  have hbusy₂ := hstatus ▸ hbusy₁
  obtain ⟨k₁, w₁, hk₁, hdone₁, hsame₁, hraced₁, hword₁⟩ := exists_doneAfter_issue hb₁ hbusy₁ hd₁
  obtain ⟨k₂, w₂, hk₂, hdone₂, hsame₂, -, hword₂⟩ := exists_doneAfter_issue hb₂ hbusy₂ hd₂
  have hsame : SameRequest w₁ w₂ :=
    (hsame₁.symm.trans (sameRequest_issue himage hb₁ hb₂ hbusy₁)).trans hsame₂
  obtain ⟨hst, hregs⟩ := complete_congr hsame hraced₁
  exact ⟨k₁, k₂, complete w₁, complete w₂, hk₁, hk₂, hdone₁, hdone₂, hst, hword₁, hword₂, hregs⟩

end Sys2Proof.Machine

/-! ## The state: its registers, its memories and who may change them (spec/10_state.md)

First the layer: STATUS by its phases (rules R12, R15), the frame of the issue of a command (rule R120), and what one host
transaction changes, piece by piece. The statements about a whole step follow from it by `step_cases`. -/

namespace Sys2Proof.Machine

/-! ### STATUS by its phases (rules R12, R15) -/

/-- A legal STATUS in each of the four phases. -/
theorem Status.legal_cases {st : Status} (h : st.legal) :
    (∃ ovr, st = { busy := true, done := false, err := false, ovr, errCode := 0 }) ∨
    (∃ ovr, st = { busy := false, done := true, err := false, ovr, errCode := 0 }) ∨
    (∃ errCode, (errCode = 1 ∨ errCode = 2) ∧ st = { busy := false, done := false, err := true, ovr := false, errCode }) ∨
    st = Status.zero := by
  obtain ⟨busy, done, err, ovr, errCode⟩ := st
  obtain ⟨hbd, hbe, hde, hcode, hnocode, hovr⟩ := h
  cases busy
  case true => exact .inl ⟨ovr, by simp_all⟩
  case false =>
    cases done
    case true => exact .inr (.inl ⟨ovr, by simp_all⟩)
    case false =>
      cases err
      case true => exact .inr (.inr (.inl ⟨errCode, hcode rfl, by simp_all⟩))
      case false => exact .inr (.inr (.inr (by simp_all [Status.zero])))

/-- During BUSY only OVR is open. -/
theorem Status.eq_of_legal_of_busy {st : Status} (h : st.legal) (hb : st.busy = true) :
    ∃ ovr, st = { busy := true, done := false, err := false, ovr, errCode := 0 } := by
  obtain hbusy | ⟨ovr, rfl⟩ | ⟨errCode, -, rfl⟩ | rfl := Status.legal_cases h
  · exact hbusy
  all_goals cases hb

theorem Status.phase_eq_busy_iff (st : Status) : st.phase = .busy ↔ st.busy = true := by
  unfold Status.phase
  split_ifs <;> simp_all

@[simp] theorem Status.phase_dropped (st : Status) : st.dropped.phase = st.phase := rfl

@[simp] theorem Status.phase_completed (st : Status) : st.completed.phase = .done := rfl

/-! ### The frame of the issue of a command (rule R120) -/

section
variable (request : Option (ScanMode × Half)) (s : State)

/-- An issue changes STATUS, the result registers, the latches and the race record, and nothing else. -/
theorem issue_frame : issue request s =
    { s with
      status := (issue request s).status
      outLen := (issue request s).outLen
      pkRows := (issue request s).pkRows
      pkCols := (issue request s).pkCols
      resWidth := (issue request s).resWidth
      resHeight := (issue request s).resHeight
      reqW := (issue request s).reqW
      reqH := (issue request s).reqH
      reqMode := (issue request s).reqMode
      reqThr := (issue request s).reqThr
      raced := (issue request s).raced } := by
  obtain ⟨-, hu⟩ | ⟨-, -, hu⟩ | ⟨-, -, -, hu⟩ | ⟨-, -, mode, thr, -, hu⟩ := issue_cases request s <;> rw [hu] <;> rfl

@[simp] theorem issue_cfg : (issue request s).cfg = s.cfg := by rw [issue_frame]
@[simp] theorem issue_width : (issue request s).width = s.width := by rw [issue_frame]
@[simp] theorem issue_height : (issue request s).height = s.height := by rw [issue_frame]
@[simp] theorem issue_img : (issue request s).img = s.img := by rw [issue_frame]
@[simp] theorem issue_bin : (issue request s).bin = s.bin := by rw [issue_frame]
@[simp] theorem issue_out : (issue request s).out = s.out := by rw [issue_frame]

/-- The latches keep what they hold, unless the command is accepted (rules R23, R120). -/
theorem issue_latches :
    ((issue request s).reqW = s.reqW ∧ (issue request s).reqH = s.reqH ∧ (issue request s).reqMode = s.reqMode ∧
      (issue request s).reqThr = s.reqThr) ∨
    (s.status.busy = false ∧ (issue request s).status.busy = true) := by
  obtain ⟨-, hu⟩ | ⟨-, -, hu⟩ | ⟨-, -, -, hu⟩ | ⟨hb, -, mode, thr, -, hu⟩ := issue_cases request s <;> rw [hu]
  case inr.inr.inr => exact .inr ⟨hb, rfl⟩
  all_goals exact .inl ⟨rfl, rfl, rfl, rfl⟩

/-- A command written with BUSY = 0 is accepted or refused (rules R12, R120). -/
theorem issue_phase_of_not_busy (hb : s.status.busy = false) :
    (issue request s).status.phase = .busy ∨ (issue request s).status.phase = .err := by
  rw [issue_status_of_not_busy request hb]
  split_ifs
  · exact .inr rfl
  · exact .inl rfl
  · exact .inr rfl

end

/-! ### What a host transaction changes -/

section
variable {op : HostOp} {s u : State}

/-- No transaction changes the capacity, BIN or OUT. -/
theorem hostOp_frame (h : hostOp op s = .next u) : u.cfg = s.cfg ∧ u.bin = s.bin ∧ u.out = s.out := by
  obtain ⟨r, rfl⟩ | ⟨r, -, rfl⟩ | ⟨c, request, -, -, rfl⟩ | ⟨v, -, rfl⟩ | ⟨v, -, rfl⟩ | rfl | ⟨a, v, -, -, rfl⟩ |
    ⟨r, -, -, rfl⟩ := hostOp_cases h
  case inr.inr.inl => exact ⟨issue_cfg .., issue_bin .., issue_out ..⟩
  all_goals exact ⟨rfl, rfl, rfl⟩

/-- WIDTH, HEIGHT and IMG change only by the write to them, the latches only at accept (rules R16, R17, R23, R24). -/
theorem hostOp_inputs (h : hostOp op s = .next u) :
    (u.width = s.width ∨ ∃ v, op = .regWrite 0x08 v ∧ u.width = lowHalf v) ∧
    (u.height = s.height ∨ ∃ v, op = .regWrite 0x0C v ∧ u.height = lowHalf v) ∧
    (u.img = s.img ∨ ∃ a v, op = .imgWrite a v ∧ u.img = s.img.write a v) ∧
    ((u.reqW = s.reqW ∧ u.reqH = s.reqH ∧ u.reqMode = s.reqMode ∧ u.reqThr = s.reqThr) ∨
      (s.status.busy = false ∧ u.status.busy = true ∧ ∃ c, op = .regWrite 0x00 c)) := by
  obtain ⟨r, rfl⟩ | ⟨r, -, rfl⟩ | ⟨c, request, hop, -, rfl⟩ | ⟨v, hop, rfl⟩ | ⟨v, hop, rfl⟩ | rfl | ⟨a, v, hop, -, rfl⟩ |
    ⟨r, -, -, rfl⟩ := hostOp_cases h
  case inr.inr.inl =>
    refine ⟨.inl (issue_width ..), .inl (issue_height ..), .inl (issue_img ..), ?_⟩
    exact (issue_latches request s).imp_right fun ⟨hb, hbusy⟩ => ⟨hb, hbusy, c, hop⟩
  case inr.inr.inr.inl => exact ⟨.inr ⟨v, hop, rfl⟩, .inl rfl, .inl rfl, .inl ⟨rfl, rfl, rfl, rfl⟩⟩
  case inr.inr.inr.inr.inl => exact ⟨.inl rfl, .inr ⟨v, hop, rfl⟩, .inl rfl, .inl ⟨rfl, rfl, rfl, rfl⟩⟩
  case inr.inr.inr.inr.inr.inr.inl => exact ⟨.inl rfl, .inl rfl, .inr ⟨a, v, hop, rfl⟩, .inl ⟨rfl, rfl, rfl, rfl⟩⟩
  all_goals exact ⟨.inl rfl, .inl rfl, .inl rfl, .inl ⟨rfl, rfl, rfl, rfl⟩⟩

/-- STATUS changes only by a CMD write, which is an issue (rules R12, R120). -/
theorem hostOp_status (h : hostOp op s = .next u) :
    u.status = s.status ∨ ∃ c request, op = .regWrite 0x00 c ∧ u = issue request s := by
  obtain ⟨r, rfl⟩ | ⟨r, -, rfl⟩ | ⟨c, request, hop, -, rfl⟩ | ⟨v, -, rfl⟩ | ⟨v, -, rfl⟩ | rfl | ⟨a, v, -, -, rfl⟩ |
    ⟨r, -, -, rfl⟩ := hostOp_cases h
  case inr.inr.inl => exact .inr ⟨c, request, hop, rfl⟩
  all_goals exact .inl rfl

/-- A transaction leaves the phase alone, or is a CMD write that finds BUSY = 0 and is accepted or refused (rule R12). -/
theorem hostOp_phase (h : hostOp op s = .next u) :
    u.status.phase = s.status.phase ∨
    (s.status.phase ≠ .busy ∧ (u.status.phase = .busy ∨ u.status.phase = .err) ∧ ∃ c, op = .regWrite 0x00 c) := by
  obtain hst | ⟨c, request, hop, rfl⟩ := hostOp_status h
  · exact .inl (by rw [hst])
  · cases hb : s.status.busy
    case true => exact .inl (by rw [issue_of_busy request hb, dropCommand_status, Status.phase_dropped])
    case false =>
      exact .inr ⟨by simp [Status.phase_eq_busy_iff, hb], issue_phase_of_not_busy request s hb, c, hop⟩

end

/-! ### Steps -/

section
variable {s u : State}

/-- Only a host's step can fail to go on. -/
theorem step_next_of_not_host (h : nextTurn s ≠ some .host) : ∃ u, step s = .next u := by
  unfold step
  generalize nextTurn s = turn at h
  cases turn with
  | none => exact ⟨_, rfl⟩
  | some t =>
    cases t with
    | host => exact absurd rfl h
    | codec => exact ⟨_, rfl⟩
    | reset => exact ⟨_, rfl⟩

/-- No agent changes the capacity (rule R5, log 1). -/
theorem step_cfg (hstep : step s = .next u) : u.cfg = s.cfg := by
  obtain ⟨-, rfl⟩ | ⟨-, rfl⟩ | ⟨-, rfl⟩ | ⟨-, op, rest, -, hop⟩ := step_cases hstep
  case inr.inr.inr => exact (hostOp_frame hop).1
  all_goals rfl

end

/-! ### The statements -/

/-- Settles O39: `ImgWrite` below the capacity is `storeSample`, and `imgCell_storeSample` says what IMG then holds. -/
theorem imgReadReturnsTheLastSampleWritten : Obligations.ImgReadReturnsTheLastSampleWritten := by
  intro a v s ha
  have hread : imgCell (storeSample a v s) a = v := by rw [imgCell_storeSample, if_pos rfl]
  refine ⟨storeSample a v s, if_pos ha, hread, fun b hb => ?_, rfl, fun hidle => ?_, ?_⟩
  · rw [imgCell_storeSample, if_neg hb.symm]
  · rw [storeSample_raced, racedAfterWrite, if_neg (by simp [hidle])]
  · rw [hostImgRead, hread]
    exact if_pos ha

/-- Settles O41: only a host's step can be refused, and it is what `hostOp_refused_iff` says of its transaction. -/
theorem stepRefusesExactlyAccessesOutsideTheMap : Obligations.StepRefusesExactlyAccessesOutsideTheMap := by
  intro s
  constructor
  · rintro ⟨r, hstep⟩
    by_cases hn : nextTurn s = some .host
    · obtain ⟨op, rest, hp⟩ := nextTurn_host hn
      rw [step_of_host hn hp] at hstep
      exact ⟨hn, op, rest, hp, (hostOp_refused_iff op (setProgram rest (takeTurn s))).1 ⟨r, hstep⟩⟩
    · obtain ⟨u, hu⟩ := step_next_of_not_host hn
      rw [hu] at hstep
      cases hstep
  · rintro ⟨hn, op, rest, hp, hmap⟩
    rw [step_of_host hn hp]
    exact (hostOp_refused_iff op _).2 hmap

/-- Settles O48: each of the four phases leaves STATUS one or two values (`Status.legal_cases`). -/
theorem statusReadsOneOfSevenValues : Obligations.StatusReadsOneOfSevenValues := by
  intro s h
  change s.status.word ∈ _
  obtain ⟨ovr, hst⟩ | ⟨ovr, hst⟩ | ⟨errCode, rfl | rfl, hst⟩ | hst := Status.legal_cases h.status <;> rw [hst]
  case inl | inr.inl => cases ovr <;> decide
  all_goals decide

/-- Settles O49: BUSY leaves STATUS two values, and outside DONE the invariant keeps the result registers at 0. -/
theorem registerReadsAreExactDuringBusy : Obligations.RegisterReadsAreExactDuringBusy := by
  intro s h hb
  obtain ⟨ovr, hst⟩ := Status.eq_of_legal_of_busy h.status hb
  obtain ⟨hlen, hrows, hcols, hwidth, hheight⟩ := h.notDone (by rw [hst])
  constructor
  · change s.status.word ∈ _
    rw [hst]
    cases ovr <;> decide
  · simp [readReg, readHalf, hlen, hrows, hcols, hwidth, hheight]

/-- Settles O50: one case for each agent that can move; the host's is `hostOp_phase`. -/
theorem phaseChangesOnlyAsRule12Allows : Obligations.PhaseChangesOnlyAsRule12Allows := by
  intro s u _ hstep
  obtain ⟨hn, rfl⟩ | ⟨hn, rfl⟩ | ⟨-, rfl⟩ | ⟨hn, op, rest, hp, hop⟩ := step_cases hstep
  · exact .inr (.inr (.inr ⟨rfl, hn⟩))
  · exact .inr (.inr (.inl ⟨(Status.phase_eq_busy_iff _).2 (nextTurn_codec hn), rfl, hn⟩))
  · exact .inl rfl
  · obtain hsame | ⟨hidle, hphase, c, rfl⟩ := hostOp_phase hop
    · exact .inl hsame
    · exact .inr (.inl ⟨hidle, hphase, hn, c, rest, hp⟩)

/-- Settles O51: `Complete` and the idle step leave the inputs alone, and a host's step is `hostOp_inputs`. -/
theorem inputsChangeOnlyByTheHostsWrites : Obligations.InputsChangeOnlyByTheHostsWrites := by
  intro s u hstep
  refine ⟨step_cfg hstep, fun hreset => ?_⟩
  obtain ⟨hn, -⟩ | ⟨-, rfl⟩ | ⟨-, rfl⟩ | ⟨hn, op, rest, hp, hop⟩ := step_cases hstep
  · exact absurd hn hreset
  · simp
  · simp
  · obtain ⟨hwidth, hheight, himg, hlatches⟩ := hostOp_inputs hop
    refine ⟨fun hne => ?_, fun hne => ?_, fun hne => ?_, fun hne => ?_⟩
    · obtain ⟨v, rfl, hv⟩ := hwidth.resolve_left hne
      exact ⟨hn, v, rest, hp, hv⟩
    · obtain ⟨v, rfl, hv⟩ := hheight.resolve_left hne
      exact ⟨hn, v, rest, hp, hv⟩
    · obtain ⟨a, v, rfl, hv⟩ := himg.resolve_left hne
      exact ⟨hn, a, v, rest, hp, hv⟩
    · simp only [ne_eq, ← not_and_or] at hne
      obtain ⟨hidle, hbusy, c, rfl⟩ := hlatches.resolve_left hne
      exact ⟨hn, hidle, hbusy, c, rest, hp⟩

/-- Settles O52: what is left is the idle step and the host's, whose transactions write neither memory. -/
theorem onlyCompleteWritesBinAndOut : Obligations.OnlyCompleteWritesBinAndOut := by
  intro s u hstep hreset hcodec
  obtain ⟨hn, -⟩ | ⟨hn, -⟩ | ⟨-, rfl⟩ | ⟨-, op, rest, -, hop⟩ := step_cases hstep
  · exact absurd hn hreset
  · exact absurd hn hcodec
  · exact ⟨rfl, rfl⟩
  · exact (hostOp_frame hop).2

/-! ### The step of a CMD write (rules R13, R69) -/

theorem issueWord_of_instr {c : Word} {i : Instr} (h : decode c = .instr i) (s : State) : issueWord c s = exec i s := by
  simp only [issueWord, h]

theorem issueWord_of_illegal {c : Word} {m : BitVec 15} (h : decode c = .illegal m) (s : State) :
    issueWord c s = .next (issue none s) := by
  simp only [issueWord, h, execIllegalCommand]

/-- A host's step whose line is a CMD write is the issue of the word. -/
theorem step_of_cmd_write {s : State} {c : Word} {rest : List HostOp} (hn : nextTurn s = some .host)
    (hp : s.program = .regWrite 0x00 c :: rest) : step s = issueWord c (setProgram rest (takeTurn s)) :=
  step_of_host hn hp

/-- The step after a placement issues the word in the state before it (log 8). -/
theorem step_placeCommand (c : Word) (s : State) : step (placeCommand c s) = issueWord c s :=
  step_of_cmd_write rfl rfl

/-- The word a row's bits stand for decodes to the row's instruction (rule R66). -/
theorem decode_of_decodeTableWord {nbits w : Nat} {i : Instr} (h : decodeTableWord nbits w = some i) :
    decode (BitVec.ofNat 32 (w % 2 ^ nbits)) = .instr i := by
  unfold decodeTableWord at h
  split at h
  · split at h
    · rename_i j hj
      cases h
      exact hj
    · cases h
  · cases h

/-- Settles O7: a host's step on a CMD write is the issue of the word, and the issue of an instruction's word is its
`exec`. -/
theorem stepRunsTheDecodedInstruction : Obligations.StepRunsTheDecodedInstruction := by
  refine ⟨fun s c rest hp hn => ⟨fun i hi => ?_, fun m hm => ?_⟩, fun s w i hi => ?_⟩
  · exact (step_of_cmd_write hn hp).trans (issueWord_of_instr hi _)
  · exact (step_of_cmd_write hn hp).trans (issueWord_of_illegal hm _)
  · exact (step_placeCommand _ s).trans (issueWord_of_instr (decode_of_decodeTableWord hi) s)

/-! ### Register writes, the latches, reset -/

theorem lowHalf_toNat (v : Word) : (lowHalf v).toNat = v.toNat % 65536 := BitVec.toNat_setWidth 16 v

/-- Settles O38: the write is `setWidth`, `setHeight`, or nothing. -/
theorem registerWriteStoresTheLowHalfOrIsIgnored : Obligations.RegisterWriteStoresTheLowHalfOrIsIgnored := by
  intro v s
  refine ⟨⟨setWidth v s, rfl, lowHalf_toNat v, rfl⟩, ⟨setHeight v s, rfl, lowHalf_toNat v, rfl⟩, fun off hoff => ?_⟩
  simp only [List.mem_cons, List.not_mem_nil, or_false] at hoff
  obtain rfl | rfl | rfl | rfl | rfl | rfl := hoff <;> rfl

/-- Settles O44: `complete` reads the latches and IMG, neither of which the three writes touch. -/
theorem runningConversionUsesItsLatches : Obligations.RunningConversionUsesItsLatches :=
  fun _ _ => ⟨rfl, rfl, rfl⟩

/-- Settles O46: reset gives each register its value 0 (rule R30). -/
theorem registersReadZeroAfterReset : Obligations.RegistersReadZeroAfterReset := by
  refine ⟨fun r => ?_, rfl, rfl, rfl, rfl⟩
  cases r <;> rfl

/-- Settles O55: after reset the memories are empty and neither BUSY nor DONE is set, so only the suggested capacity and
the zeros of STATUS and the result registers are left to check. -/
theorem resetMeetsTheInvariant : Obligations.ResetMeetsTheInvariant where
  cfg := by decide
  imgWf := reset_memories_wf.1
  binWf := reset_memories_wf.2.1
  outWf := reset_memories_wf.2.2
  imgBelow := nofun
  binBelow := nofun
  outBelow := nofun
  status := by decide
  busyRequest := nofun
  notDone := fun _ => ⟨rfl, rfl, rfl, rfl, rfl⟩
  doneResult := nofun
  doneBin := nofun
  doneOut := nofun
  raced := nofun

end Sys2Proof.Machine

/-! ## Memory: what `Complete` writes (spec/20_memory.md)

The two memories `complete` stores keep what they held beyond the result, and hold a written value at each of its cells.
The bounds are the extents of the latched request: `W*H` for BIN and the length of the byte sequence for OUT. -/

namespace Sys2Proof.Machine

section
variable (s : State)

/-- The length of the byte sequence by the mode and the latched extents (rules R96, R109). -/
theorem requestedConversion_length_by_mode : (requestedConversion s).bytes.length =
    (s.reqMode.rows s.reqW.toNat s.reqH.toNat + 7) / 8 * s.reqMode.cols s.reqW.toNat s.reqH.toNat := by
  rw [requestedConversion_length, stripCount_eq]
  change ((transform s.reqMode _).rows + 7) / 8 * (transform s.reqMode _).cols = _
  rw [transform_rows, transform_cols]
  cases s.reqMode <;> rfl

/-- BIN cells at `W*H` and above keep what they held (rule R56). -/
theorem read_bin_complete_other {a : Nat} (ha : s.reqW.toNat * s.reqH.toNat ≤ a) :
    (complete s).bin.read a = s.bin.read a :=
  read_writeAll_binCells_other s.bin (requestedConversion s).binary ((Nat.mul_comm _ _).trans_le ha)

/-- OUT cells beyond the byte sequence keep what they held (rule R56). -/
theorem read_out_complete_other {i : Nat} (hi : (requestedConversion s).bytes.length ≤ i) :
    (complete s).out.read i = s.out.read i :=
  read_writeAll_outCells_other s.out _ hi

/-- Every BIN cell below `W*H` is that of a pixel and has been written. -/
theorem isSome_read_bin_complete {a : Nat} (ha : a < s.reqW.toNat * s.reqH.toNat) :
    ((complete s).bin.read a).isSome = true := by
  obtain ⟨y, hy, x, hx, rfl⟩ := exists_sampleAddress ha
  exact Option.isSome_of_eq_some (read_bin_complete s hy hx)

theorem isSome_read_out_complete {i : Nat} (hi : i < (requestedConversion s).bytes.length) :
    ((complete s).out.read i).isSome = true :=
  Option.isSome_of_eq_some (read_out_complete s hi)

end

/-- The CMD write of any word, instruction or not, leaves the three memories alone (rules R56, R120). -/
theorem issueWord_memories {c : Word} {s u : State} (h : issueWord c s = .next u) :
    u.img = s.img ∧ u.bin = s.bin ∧ u.out = s.out := by
  rw [issueWord_eq_requestOf] at h
  cases h
  exact ⟨issue_img .., issue_bin .., issue_out ..⟩

/-- Settles O34: the codec's step is `complete` after its turn is taken, which changes the schedule only. -/
theorem completeWritesExactlyTheResultCells : Obligations.CompleteWritesExactlyTheResultCells := by
  refine ⟨fun s hn => ?_, fun c s u h => issueWord_memories h⟩
  have hlen := requestedConversion_length_by_mode (takeTurn s)
  exact ⟨complete (takeTurn s), step_of_codec hn, rfl,
    fun a ha => read_bin_complete_other (takeTurn s) ha,
    fun a ha => isSome_read_bin_complete (takeTurn s) ha,
    fun i hi => read_out_complete_other (takeTurn s) (hlen.trans_le hi),
    fun i hi => isSome_read_out_complete (takeTurn s) (hi.trans_eq hlen.symm),
    binCells_nodup _, outCells_nodup _⟩

end Sys2Proof.Machine

/-! ## The command word (spec/30_encoding.md)

A word is its three fields (`word_ext`), and decoding reads MODE and the threshold operand only: `decode_eq_instr_iff` and
`decode_eq_illegal_iff` say when a word is an instruction and when it is illegal. The fields of an encoded word are those
of `Laws.EncodedFields`. -/

namespace Sys2Proof.Machine

/-! ### The fields of a word (rule R60) -/

/-- A command word is determined by THR, TV and MODE. -/
theorem word_ext {c d : Word} (hthr : thrField c = thrField d) (htv : tvField c = tvField d)
    (hmode : modeField c = modeField d) : c = d := by
  apply BitVec.eq_of_getLsbD_eq
  intro k hk
  obtain hlow | rfl | hhigh : k < 15 ∨ k = 15 ∨ 16 ≤ k := by omega
  · have h := congrArg (BitVec.getLsbD · k) hmode
    simpa [modeField, BitVec.getLsbD_extractLsb', hlow] using h
  · exact htv
  · have h := congrArg (BitVec.getLsbD · (k - 16)) hthr
    simpa [thrField, BitVec.getLsbD_extractLsb', show k - 16 < 16 by omega, show 16 + (k - 16) = k by omega] using h

/-- The mask of rule R63 leaves MODE. -/
theorem and_mask_eq_modeField (c : Word) : c &&& 0x00007FFF#32 = (modeField c).setWidth 32 := by
  apply BitVec.eq_of_toNat_eq
  rw [BitVec.toNat_and, BitVec.toNat_setWidth, modeField, BitVec.extractLsb'_toNat]
  change c.toNat &&& 2 ^ 15 - 1 = _
  rw [Nat.and_two_pow_sub_one_eq_mod, Nat.shiftRight_zero]
  omega

theorem and_mask_eq_iff (c : Word) (m : BitVec 15) : c &&& 0x00007FFF#32 = m.setWidth 32 ↔ modeField c = m := by
  rw [and_mask_eq_modeField]
  refine ⟨fun h => BitVec.eq_of_toNat_eq ?_, fun h => by rw [h]⟩
  have := congrArg BitVec.toNat h
  simp only [BitVec.toNat_setWidth] at this
  omega

/-! ### Decoding (rules R61 to R64) -/

theorem modeNumber_lt (i : Instr) : i.modeNumber < 4 := by
  cases i <;> simp [Instr.modeNumber]

theorem toNat_modeNumber (i : Instr) : (BitVec.ofNat 15 i.modeNumber).toNat = i.modeNumber :=
  Nat.mod_eq_of_lt ((modeNumber_lt i).trans (by decide))

/-- A word is the instruction with its MODE and its operand, or MODE is 4 or more and the word is illegal. -/
theorem decode_cases (c : Word) :
    (∃ i, decode c = .instr i ∧ modeField c = BitVec.ofNat 15 i.modeNumber ∧ thresholdOperand c = i.threshold) ∨
    (decode c = .illegal (modeField c) ∧ 4 ≤ (modeField c).toNat) := by
  unfold decode
  split_ifs with h0 h1 h2 h3
  · exact .inl ⟨_, rfl, h0, rfl⟩
  · exact .inl ⟨_, rfl, h1, rfl⟩
  · exact .inl ⟨_, rfl, h2, rfl⟩
  · exact .inl ⟨_, rfl, h3, rfl⟩
  · exact .inr ⟨rfl, by bv_omega⟩

theorem decode_of_fields {c : Word} {i : Instr} (hmode : modeField c = BitVec.ofNat 15 i.modeNumber)
    (ht : thresholdOperand c = i.threshold) : decode c = .instr i := by
  unfold decode
  rw [hmode, ht]
  cases i <;> rfl

/-- A word is an instruction exactly when its MODE is the instruction's number and its operand the instruction's. -/
theorem decode_eq_instr_iff {c : Word} {i : Instr} :
    decode c = .instr i ↔ modeField c = BitVec.ofNat 15 i.modeNumber ∧ thresholdOperand c = i.threshold := by
  refine ⟨fun h => ?_, fun ⟨hmode, ht⟩ => decode_of_fields hmode ht⟩
  obtain ⟨j, hj, hfields⟩ | ⟨hillegal, -⟩ := decode_cases c
  · cases hj.symm.trans h
    exact hfields
  · cases hillegal.symm.trans h

/-- A word is illegal exactly when its MODE is 4 or more (rule R64). -/
theorem decode_eq_illegal_iff {c : Word} {m : BitVec 15} :
    decode c = .illegal m ↔ 4 ≤ (modeField c).toNat ∧ modeField c = m := by
  obtain ⟨i, hi, hmode, -⟩ | ⟨hillegal, hmode⟩ := decode_cases c
  · have hlt := modeNumber_lt i
    rw [hi, hmode, toNat_modeNumber]
    exact ⟨nofun, fun ⟨hge, _⟩ => absurd hge (by omega)⟩
  · simp [hillegal, hmode]

/-- Decoding reads MODE and the threshold operand only. -/
theorem decode_congr {c d : Word} (hmode : modeField c = modeField d) (ht : thresholdOperand c = thresholdOperand d) :
    decode c = decode d := by
  simp only [decode, hmode, ht]

/-! ### The threshold operand (rules R61, R62) -/

theorem thresholdFits_some_iff (t : Int) : thresholdFits (some t) = true ↔ -32768 ≤ t ∧ t ≤ 32767 := by
  simp [thresholdFits]

/-- With TV = 0 the operand is absent, whatever THR holds (rule R62). -/
theorem thresholdOperand_of_not_tv {c : Word} (htv : tvField c = false) : thresholdOperand c = none := by
  simp [thresholdOperand, htv]

theorem thresholdFits_operand (c : Word) : thresholdFits (thresholdOperand c) = true := by
  unfold thresholdOperand
  split
  · have hlo := BitVec.le_toInt (thrField c)
    have hhi := BitVec.toInt_lt (x := thrField c)
    exact (thresholdFits_some_iff _).2 (by omega)
  · rfl

/-- A threshold that fits the field comes back from its 16 bits. -/
theorem toInt_ofInt_of_fits {t : Int} (h : thresholdFits (some t) = true) : (BitVec.ofInt 16 t).toInt = t := by
  obtain ⟨hlo, hhi⟩ := (thresholdFits_some_iff t).1 h
  exact BitVec.toInt_ofInt_eq_self (by decide) hlo (by omega)

/-- The latch of accept keeps the threshold of a well-formed operand (rule R23). -/
theorem toInt_thresholdLatch {t : Option Int} (h : thresholdFits t = true) :
    (thresholdLatch t).toInt = effectiveThreshold t := by
  cases t with
  | none => decide
  | some t => exact toInt_ofInt_of_fits h

/-- The operand of a word whose TV and THR are those of `t` is `t`. -/
theorem thresholdOperand_of_fields {c : Word} {t : Option Int} (hfits : thresholdFits t = true)
    (htv : tvField c = t.isSome) (hthr : thrField c = BitVec.ofInt 16 (t.getD 0)) : thresholdOperand c = t := by
  cases t with
  | none => simp [thresholdOperand, htv]
  | some t => simp [thresholdOperand, htv, hthr, toInt_ofInt_of_fits hfits]

theorem isSome_thresholdOperand (c : Word) : (thresholdOperand c).isSome = tvField c := by
  cases htv : tvField c <;> simp [thresholdOperand, htv]

/-- The 16 bits of a word's operand are THR where TV = 1 and 0 where TV = 0. -/
theorem ofInt_thresholdOperand (c : Word) :
    BitVec.ofInt 16 ((thresholdOperand c).getD 0) = if tvField c then thrField c else 0 := by
  unfold thresholdOperand
  split
  · exact BitVec.ofInt_toInt
  · rfl

/-! ### Encoding (rule R73) -/

theorem fields_of_encode (i : Instr) : Laws.EncodedFields.Statement i :=
  Laws.EncodedFields.fields_of_encodeMode i.modeNumber (modeNumber_lt i) i.threshold

/-- Settles O1: the three fields of the encoded word are the instruction's, and decoding reads them back. -/
theorem encodeThenDecodeGivesTheInstruction : Obligations.EncodeThenDecodeGivesTheInstruction := by
  intro i hwf
  obtain ⟨hmode, htv, hthr⟩ := fields_of_encode i
  exact decode_eq_instr_iff.2 ⟨hmode, thresholdOperand_of_fields hwf htv hthr⟩

/-- Settles O2: MODE and TV come back as they were, so the word does exactly when THR does. -/
theorem decodeThenEncodeGivesTheWordWhenNothingIsIgnored :
    Obligations.DecodeThenEncodeGivesTheWordWhenNothingIsIgnored := by
  intro c i h
  obtain ⟨hmode, ht⟩ := decode_eq_instr_iff.1 h
  obtain ⟨hmode', htv', hthr'⟩ := fields_of_encode i
  rw [← ht, isSome_thresholdOperand] at htv'
  rw [← ht, ofInt_thresholdOperand] at hthr'
  refine ⟨by rw [Instr.wf, ← ht]; exact thresholdFits_operand c, ?_⟩
  change encode i = c ↔ tvField c = true ∨ thrField c = 0
  calc encode i = c
      ↔ thrField (encode i) = thrField c := ⟨fun e => by rw [e], fun e => word_ext e htv' (hmode'.trans hmode.symm)⟩
    _ ↔ tvField c = true ∨ thrField c = 0 := by
      rw [hthr']
      cases tvField c
      · simpa using eq_comm
      · simp

/-! ### The rows of the table and the effective threshold (rules R62, R63) -/

/-- A word is an instruction of the MODE number's row exactly when the mask gives the row's match value (rule R63). -/
theorem exists_decode_iff_mask (c : Word) {row : Option Int → Instr} {m : BitVec 15}
    (hnumber : ∀ t, BitVec.ofNat 15 (row t).modeNumber = m) (hthr : ∀ t, (row t).threshold = t) :
    (∃ t, decode c = .instr (row t)) ↔ c &&& 0x00007FFF#32 = m.setWidth 32 := by
  simp [decode_eq_instr_iff, hnumber, hthr, and_mask_eq_iff]

/-- Bit 0 of the MODE number says transposing and bit 1 serpentine (rule R63). -/
theorem scanMode_bits (i : Instr) : i.scanMode.transposes = (BitVec.ofNat 15 i.modeNumber).getLsbD 0 ∧
    i.scanMode.reversesOddRows = (BitVec.ofNat 15 i.modeNumber).getLsbD 1 := by
  cases i <;> simp [Instr.scanMode, Instr.modeNumber, ScanMode.transposes, ScanMode.reversesOddRows]

/-- Settles O3: each row is `exists_decode_iff_mask`; the two bits of MODE are bits 0 and 1 of the word. -/
theorem wordIsTheRowsInstructionExactlyWhenItsMaskMatches :
    Obligations.WordIsTheRowsInstructionExactlyWhenItsMaskMatches := by
  refine ⟨fun c => ⟨?_, ?_, ?_, ?_⟩, fun c i h => ?_⟩
  · exact exists_decode_iff_mask c (row := .convRm) (m := 0) (fun _ => rfl) fun _ => rfl
  · exact exists_decode_iff_mask c (row := .convCm) (m := 1) (fun _ => rfl) fun _ => rfl
  · exact exists_decode_iff_mask c (row := .convRs) (m := 2) (fun _ => rfl) fun _ => rfl
  · exact exists_decode_iff_mask c (row := .convCs) (m := 3) (fun _ => rfl) fun _ => rfl
  · have hmode := (decode_eq_instr_iff.1 h).1
    have hbit : ∀ k < 15, c.getLsbD k = (BitVec.ofNat 15 i.modeNumber).getLsbD k := fun k hk => by
      rw [← hmode, modeField, BitVec.getLsbD_extractLsb', Nat.zero_add]
      simp [hk]
    rw [hbit 0 (by decide), hbit 1 (by decide)]
    exact scanMode_bits i

theorem effectiveThreshold_operand (c : Word) : effectiveThreshold (thresholdOperand c) = wordThreshold c := by
  unfold thresholdOperand wordThreshold tvField thrField
  split <;> rfl

/-- Settles O4: the operand is read from TV and THR and fits the latch; with TV = 0 the operand does not depend on THR. -/
theorem effectiveThresholdIsTheFieldOrTheDefault : Obligations.EffectiveThresholdIsTheFieldOrTheDefault := by
  refine ⟨fun c i h => ?_, fun c htv => ?_⟩
  · rw [← (decode_eq_instr_iff.1 h).2]
    exact ⟨effectiveThreshold_operand c, toInt_thresholdLatch (thresholdFits_operand c)⟩
  · have hmode : modeField (c &&& 0x0000FFFF#32) = modeField c := by
      rw [← and_mask_eq_iff, BitVec.and_assoc]
      exact and_mask_eq_modeField c
    have htv' : tvField (c &&& 0x0000FFFF#32) = false := by rw [tvField, BitVec.getLsbD_and, htv, Bool.false_and]
    exact decode_congr hmode ((thresholdOperand_of_not_tv htv').trans (thresholdOperand_of_not_tv htv).symm)

/-! ### The issue of an illegal command (rule R64) -/

/-- STATUS after an illegal command written with BUSY = 0: InvalidImageError has priority (rules R143, R146). -/
theorem status_word_of_illegal {s : State} (hb : s.status.busy = false) :
    (issue none s).status.word = if s.badExtents then 0x14 else 0x24 := by
  rw [issue_status_of_not_busy none hb]
  by_cases hbad : s.badExtents
  · rw [if_pos ((imageInvalid_iff s).2 hbad), if_pos hbad]
    decide
  · rw [if_neg (mt (imageInvalid_iff s).1 hbad), if_neg hbad]
    decide

/-- Settles O5: the write of an illegal word is the issue without a request, which writes no memory. -/
theorem illegalCommandConvertsNothingAndIsReported : Obligations.IllegalCommandConvertsNothingAndIsReported := by
  intro c
  refine ⟨by simp [decode_eq_illegal_iff, modeField], fun hmode => ?_⟩
  have hillegal : decode c = .illegal (modeField c) := decode_eq_illegal_iff.2 ⟨hmode, rfl⟩
  exact ⟨hillegal, fun s hb => ⟨issue none s, issueWord_of_illegal hillegal s, status_word_of_illegal hb,
    issue_img .., issue_bin .., issue_out ..⟩⟩

/-- Settles O6: eight concrete words, decoded by evaluation. -/
theorem wordsOfTheSpecDecode : Obligations.WordsOfTheSpecDecode := by
  unfold Obligations.WordsOfTheSpecDecode
  decide

/-! ### `WAIT` (rule R69) -/

/-- Settles O42: the host's step is `hostWait`, whose test reads BUSY (`Status.word_getLsbD_zero`). -/
theorem waitEndsOnlyWhenBusyReadsZero : Obligations.WaitEndsOnlyWhenBusyReadsZero := by
  intro s rest hp hn
  rw [step_of_host hn hp]
  have hbit : (readReg (setProgram rest (takeTurn s)) .status).getLsbD 0 = s.status.busy :=
    Status.word_getLsbD_zero s.status
  rw [hostOp, hostWait, hbit]
  cases s.status.busy <;> rfl

end Sys2Proof.Machine

/-! ## Stage 1, the Binarizer (spec/40_binarizer.md)

A bit of the result is `sampleBit` of its sample, and `sampleBit` is a comparison: two thresholds on the same side of a
sample give the same bit (`sampleBit_congr`), and a higher threshold never gives a higher one (`sampleBit_antitone`). -/

namespace Sys2Proof.Machine

section
variable (lum : Byte)

/-- A bit is read from the side of the threshold its sample is on (rules R80, R82). -/
theorem sampleBit_congr {t₁ t₂ : Int} (h : t₁ < (lum.toNat : Int) ↔ t₂ < (lum.toNat : Int)) :
    sampleBit lum t₁ = sampleBit lum t₂ := by
  simp only [sampleBit, h]

theorem sampleBit_eq_zero_or_one (thr : Int) : sampleBit lum thr = 0 ∨ sampleBit lum thr = 1 := by
  rw [sampleBit_eq_zero_iff, sampleBit_eq_one_iff]
  exact le_or_gt _ _

theorem sampleBit_antitone {t₁ t₂ : Int} (h : t₁ ≤ t₂) : (sampleBit lum t₂).toNat ≤ (sampleBit lum t₁).toNat := by
  obtain hzero | hone := sampleBit_eq_zero_or_one lum t₂
  · rw [hzero]
    exact Nat.zero_le _
  · have hone₁ : sampleBit lum t₁ = 1 := (sampleBit_eq_one_iff ..).2 (h.trans_lt ((sampleBit_eq_one_iff ..).1 hone))
    rw [hone, hone₁]

/-- Between a threshold and the next one lies no sample but the one equal to the next (rule R84). -/
theorem sampleBit_succ_of_ne {t : Int} (h : (lum.toNat : Int) ≠ t + 1) : sampleBit lum (t + 1) = sampleBit lum t :=
  sampleBit_congr lum (by omega)

/-- Every sample is in 0 to 255, so a threshold below -1 or above 255 compares as the nearer of the two (rule R83). -/
theorem sampleBit_clamp (thr : Int) : sampleBit lum thr = sampleBit lum (max (-1) (min 255 thr)) := by
  have hmax : lum.toNat < 256 := lum.isLt
  exact sampleBit_congr lum (by omega)

end

/-- Settles O10: two thresholds are compared by `sampleBit_antitone`; one step up, the sample equal to the new threshold
is on its other side and every other sample on the same one. -/
theorem binarizerIsNonIncreasingInTheThreshold : Obligations.BinarizerIsNonIncreasingInTheThreshold := by
  intro lum h w y _ x _
  simp only [binarize_bit]
  refine ⟨fun _ _ hle => sampleBit_antitone _ hle, fun t => ⟨fun heq => ⟨?_, ?_⟩, sampleBit_succ_of_ne _⟩⟩
  · exact (sampleBit_eq_one_iff ..).2 (heq ▸ Int.lt_succ t)
  · exact (sampleBit_eq_zero_iff ..).2 heq.le

/-- Settles O8: the extents are the arguments, and a cell is `sampleBit` of its sample. -/
theorem binarizerComparesStrictlyAndKeepsTheExtents : Obligations.BinarizerComparesStrictlyAndKeepsTheExtents :=
  fun _ _ _ _ => ⟨binarize_rows .., binarize_cols .., fun _ _ _ _ =>
    ⟨sampleBit_eq_one_iff .., sampleBit_eq_zero_or_one ..⟩⟩

/-- A ready state accepts every instruction, whatever its threshold (rules R83, R145). -/
theorem exec_of_readyToConvert (i : Instr) {s : State} (h : s.readyToConvert) :
    ∃ u, exec i s = .next u ∧ u.status = Status.zero.accepted := by
  obtain ⟨hb, hgood⟩ := (readyToConvert_iff s).1 h
  refine ⟨_, exec_eq i s, ?_⟩
  rw [issue_status_of_not_busy _ hb, if_neg (mt (imageInvalid_iff s).1 hgood)]
  rfl

/-- Settles O9: a sample is in 0 to 255, which puts it on a known side of every threshold outside; the threshold of an
instruction is no cause of an error. -/
theorem thresholdsOutsideTheSampleRangeAreDegenerate : Obligations.ThresholdsOutsideTheSampleRangeAreDegenerate := by
  refine ⟨fun lum h w thr y _ x _ => ?_, fun i s hready => ?_⟩
  · have hmax : (lum y x).toNat < 256 := (lum y x).isLt
    simp only [binarize_bit]
    refine ⟨fun hneg => ?_, fun hhigh => ?_, ?_, sampleBit_clamp _ thr⟩
    · exact (sampleBit_eq_one_iff ..).2 (by omega)
    · exact (sampleBit_eq_zero_iff ..).2 (by omega)
    · calc sampleBit (lum y x) 0 = 0
          ↔ (lum y x).toNat = 0 := by rw [sampleBit_eq_zero_iff]; omega
        _ ↔ lum y x = 0 := BitVec.toNat_inj (y := 0)
  · obtain ⟨u, hu, hstatus⟩ := exec_of_readyToConvert i hready
    exact ⟨u, hu, by rw [hstatus]; decide⟩

end Sys2Proof.Machine

/-! ## Stage 2, the Scan-Order Transformer (spec/41_scan_order.md)

Two operations make the four modes: the transpose (ColumnMajor) and the reversal of odd rows (RowSerpentine). Each is an
involution of positions, and ColumnSerpentine is the reversal of the transpose. -/

namespace Sys2Proof.Machine

/-! ### The reversal of odd rows (rules R93, R95) -/

/-- The column that element `c` of row `r` has before the odd rows, of `n` elements each, are reversed. -/
def serpentineColumn (n r c : Nat) : Nat := if r % 2 = 0 then c else n - 1 - c

theorem serpentineColumn_lt {n c : Nat} (r : Nat) (hc : c < n) : serpentineColumn n r c < n := by
  unfold serpentineColumn; split <;> omega

theorem serpentineColumn_serpentineColumn {n c : Nat} (r : Nat) (hc : c < n) :
    serpentineColumn n r (serpentineColumn n r c) = c := by
  unfold serpentineColumn; split <;> omega

/-- A row of one element and the row of index 0 are not changed (rule R99, the degenerate shapes). -/
theorem serpentineColumn_eq_self {n r c : Nat} (hc : c < n) (h : n = 1 ∨ r = 0) : serpentineColumn n r c = c := by
  unfold serpentineColumn; split <;> omega

theorem transform_rowSerpentine_bit (b : Matrix) (r c : Nat) :
    (transform .rowSerpentine b).bit r c = b.bit r (serpentineColumn b.cols r c) :=
  (apply_ite (b.bit r) ..).symm

/-! ### The relations between the modes (rules R91, R94, R98, R99) -/

theorem transform_rowMajor (b : Matrix) : transform .rowMajor b = b := rfl

theorem transform_columnMajor_columnMajor (b : Matrix) : transform .columnMajor (transform .columnMajor b) = b := rfl

/-- The transpose first, then the reversal of the odd rows of the transposed matrix. -/
theorem transform_columnSerpentine (b : Matrix) :
    transform .columnSerpentine b = transform .rowSerpentine (transform .columnMajor b) := rfl

theorem Matrix.Same.refl (b : Matrix) : b.Same b := ⟨rfl, rfl, fun _ _ _ _ => rfl⟩

theorem Matrix.Same.trans {a b c : Matrix} (hab : a.Same b) (hbc : b.Same c) : a.Same c := by
  obtain ⟨hrows, hcols, hbit⟩ := hab
  obtain ⟨hrows', hcols', hbit'⟩ := hbc
  exact ⟨hrows.trans hrows', hcols.trans hcols', fun r hr x hx =>
    (hbit r hr x hx).trans (hbit' r (hrows ▸ hr) x (hcols ▸ hx))⟩

theorem transform_rowSerpentine_rowSerpentine (b : Matrix) :
    (transform .rowSerpentine (transform .rowSerpentine b)).Same b := by
  refine ⟨rfl, rfl, fun r _ c hc => ?_⟩
  rw [transform_rowSerpentine_bit, transform_rowSerpentine_bit, transform_cols]
  exact congrArg (b.bit r) (serpentineColumn_serpentineColumn r hc)

/-- A matrix of one column or one row has no row that the reversal changes. -/
theorem transform_rowSerpentine_of_degenerate (b : Matrix) (h : b.cols = 1 ∨ b.rows = 1) :
    (transform .rowSerpentine b).Same b := by
  refine ⟨rfl, rfl, fun r (hr : r < b.rows) c (hc : c < b.cols) => ?_⟩
  rw [transform_rowSerpentine_bit, serpentineColumn_eq_self hc (by omega)]

theorem transform_rowSerpentine_bit_of_palindrome {b : Matrix} {r c : Nat}
    (h : b.bit r (b.cols - 1 - c) = b.bit r c) : (transform .rowSerpentine b).bit r c = b.bit r c := by
  rw [transform_rowSerpentine_bit]
  unfold serpentineColumn
  split
  · rfl
  · exact h

/-! ### The example of rule R98 -/

/-- The 2 by 2 matrix whose only 0 is at `(i, j)`. -/
def zeroAt (i j : Nat) : Matrix where
  rows := 2
  cols := 2
  bit := fun r c => if r = i ∧ c = j then 0 else 1

/-- `[[1,0],[1,1]]` becomes `[[1,1],[1,0]]`. -/
theorem columnSerpentine_once : (transform .columnSerpentine (zeroAt 0 1)).Same (zeroAt 1 1) := by
  unfold Matrix.Same; decide

/-- `[[1,1],[1,0]]` becomes `[[1,1],[0,1]]`. -/
theorem columnSerpentine_twice : (transform .columnSerpentine (zeroAt 1 1)).Same (zeroAt 1 0) := by
  unfold Matrix.Same; decide

/-- The reversal leaves `[[1,0],[1,1]]` as it is, so the other order gives its transpose. -/
theorem columnSerpentine_ne_transpose_of_reversal :
    ¬ (transform .columnSerpentine (zeroAt 0 1)).Same (transform .columnMajor (transform .rowSerpentine (zeroAt 0 1))) := by
  unfold Matrix.Same; decide

theorem same_zeroAt {b : Matrix} (hrows : b.rows = 2) (hcols : b.cols = 2) (h00 : b.bit 0 0 = 1) (h01 : b.bit 0 1 = 0)
    (h10 : b.bit 1 0 = 1) (h11 : b.bit 1 1 = 1) : b.Same (zeroAt 0 1) := by
  refine ⟨hrows, hcols, fun r hr c hc => ?_⟩
  rw [hrows] at hr
  rw [hcols] at hc
  interval_cases r <;> interval_cases c
  exacts [h00, h01, h10, h11]

/-- Settles O12: the two involutions, and `[[1,0],[1,1]]` for ColumnSerpentine, where element `(0, 1)` tells the second
result from the matrix. -/
theorem rowSerpentineAndColumnMajorAreInvolutions : Obligations.RowSerpentineAndColumnMajorAreInvolutions := by
  refine ⟨transform_rowSerpentine_rowSerpentine, fun b => ?_, fun b hrows hcols h00 h01 h10 h11 => ?_⟩
  · rw [transform_columnMajor_columnMajor]
    exact .refl b
  · have honce : (transform .columnSerpentine b).Same (zeroAt 1 1) :=
      (transform_same _ (same_zeroAt hrows hcols h00 h01 h10 h11)).trans columnSerpentine_once
    have htwice : (transform .columnSerpentine (transform .columnSerpentine b)).Same (zeroAt 1 0) :=
      (transform_same _ honce).trans columnSerpentine_twice
    refine ⟨honce, htwice, fun hsame => ?_⟩
    obtain ⟨hrows', hcols', hbit⟩ := htwice
    obtain ⟨-, -, hbit'⟩ := hsame
    have hr : 0 < (transform .columnSerpentine (transform .columnSerpentine b)).rows := by rw [hrows']; decide
    have hc : 1 < (transform .columnSerpentine (transform .columnSerpentine b)).cols := by rw [hcols']; decide
    have hcontra : (zeroAt 1 0).bit 0 1 = 0 := (hbit 0 hr 1 hc).symm.trans ((hbit' 0 hr 1 hc).trans h01)
    exact absurd hcontra (by decide)

/-- Settles O13: for a degenerate shape the transposed matrix is degenerate too, so one lemma about the reversal serves
both serpentine modes. -/
theorem scanModesRelateAsRule99Says : Obligations.ScanModesRelateAsRule99Says := by
  unfold Obligations.ScanModesRelateAsRule99Says
  simp only [transform_rowMajor, transform_columnSerpentine]
  refine ⟨.refl, fun _ => .refl _, ⟨zeroAt 0 1, columnSerpentine_ne_transpose_of_reversal⟩,
    fun b hcols => ⟨?_, ?_⟩, fun b hrows => ⟨?_, ?_⟩,
    fun b r _ hpal c hc => transform_rowSerpentine_bit_of_palindrome (hpal c hc)⟩
  · exact transform_rowSerpentine_of_degenerate b (.inl hcols)
  · exact transform_rowSerpentine_of_degenerate (transform .columnMajor b) (.inr hcols)
  · exact transform_rowSerpentine_of_degenerate b (.inr hrows)
  · exact transform_rowSerpentine_of_degenerate (transform .columnMajor b) (.inl hrows)

/-! ### The permutation of positions (rules R90, R96, R113)

`ScanMode.pixel` is `orient` after `reverse`. Both are their own inverses, so the pixel map is a bijection. -/

namespace ScanMode

section
variable (mode : ScanMode) (w h : Nat)

/-- The step of the pixel map inside a row: from the other end in odd rows, for the modes that reverse them. -/
def reverse (p : Nat × Nat) : Nat × Nat :=
  (p.1, if mode.reversesOddRows then serpentineColumn (mode.cols w h) p.1 p.2 else p.2)

/-- The step of the pixel map between the axes: exchanged by the modes that transpose. -/
def orient (p : Nat × Nat) : Nat × Nat := if mode.transposes then p.swap else p

theorem pixel_eq (r c : Nat) : mode.pixel w h r c = mode.orient (mode.reverse w h (r, c)) := by
  cases mode
  case rowMajor | columnMajor => rfl
  case rowSerpentine => exact (apply_ite (Prod.mk r) ..).symm
  case columnSerpentine => exact (apply_ite (fun y => (y, r)) ..).symm

/-- The positions of the transformed matrix, row and column. -/
abbrev positions : Set (Nat × Nat) := Set.Iio (mode.rows w h) ×ˢ Set.Iio (mode.cols w h)

theorem reverse_mem {p : Nat × Nat} (hp : p ∈ mode.positions w h) : mode.reverse w h p ∈ mode.positions w h := by
  obtain ⟨hr, hc⟩ := hp
  refine ⟨hr, ?_⟩
  unfold reverse
  split
  · exact serpentineColumn_lt _ hc
  · exact hc

theorem reverse_reverse {p : Nat × Nat} (hp : p ∈ mode.positions w h) : mode.reverse w h (mode.reverse w h p) = p := by
  unfold reverse
  split
  · exact Prod.ext rfl (serpentineColumn_serpentineColumn _ hp.2)
  · rfl

theorem reverse_bijOn : Set.BijOn (mode.reverse w h) (mode.positions w h) (mode.positions w h) :=
  Set.InvOn.bijOn ⟨fun _ => mode.reverse_reverse w h, fun _ => mode.reverse_reverse w h⟩
    (fun _ => mode.reverse_mem w h) (fun _ => mode.reverse_mem w h)

theorem orient_orient (p : Nat × Nat) : mode.orient (mode.orient p) = p := by
  unfold orient; split <;> simp

theorem orient_mem_iff (p : Nat × Nat) : mode.orient p ∈ Set.Iio h ×ˢ Set.Iio w ↔ p ∈ mode.positions w h := by
  unfold orient positions ScanMode.rows ScanMode.cols
  split
  · exact and_comm
  · exact Iff.rfl

theorem orient_bijOn : Set.BijOn mode.orient (mode.positions w h) (Set.Iio h ×ˢ Set.Iio w) := by
  refine Set.InvOn.bijOn ⟨fun p _ => mode.orient_orient p, fun p _ => mode.orient_orient p⟩
    (fun p hp => (mode.orient_mem_iff w h p).2 hp) fun p hp => ?_
  rwa [← mode.orient_mem_iff, orient_orient]

/-- Every element is one pixel, and every pixel one element. -/
theorem pixel_bijOn :
    Set.BijOn (fun p => mode.pixel w h p.1 p.2) (mode.positions w h) (Set.Iio h ×ˢ Set.Iio w) :=
  ((mode.orient_bijOn w h).comp (mode.reverse_bijOn w h)).congr fun _ _ => (mode.pixel_eq w h ..).symm

end

end ScanMode

section
variable (mode : ScanMode) (b : Matrix)

theorem transform_rows_eq : (transform mode b).rows = mode.rows b.cols b.rows := by cases mode <;> rfl

theorem transform_cols_eq : (transform mode b).cols = mode.cols b.cols b.rows := by cases mode <;> rfl

theorem transform_bit_eq (r c : Nat) : (transform mode b).bit r c =
    b.bit (mode.pixel b.cols b.rows r c).1 (mode.pixel b.cols b.rows r c).2 := by
  cases mode
  case rowMajor | columnMajor => rfl
  case rowSerpentine | columnSerpentine =>
    simp only [transform, transformRowSerpentine, transformColumnSerpentine, ScanMode.pixel]
    split <;> rfl

end

/-- Settles O11: the map of positions is the spec's own pixel map, a bijection by `ScanMode.pixel_bijOn`. -/
theorem eachModeIsAPermutationOfPositions : Obligations.EachModeIsAPermutationOfPositions := by
  intro mode h w _ _
  obtain ⟨hmaps, hinj, hsurj⟩ := mode.pixel_bijOn w h
  refine ⟨mode.pixel w h, ?_, fun r hr c hc => hmaps (x := (r, c)) ⟨hr, hc⟩, ?_, fun y hy x hx => ?_⟩
  · rintro b rfl rfl
    exact ⟨transform_rows_eq mode b, transform_cols_eq mode b, fun r _ c _ => transform_bit_eq mode b r c⟩
  · intro r hr c hc r' hr' c' hc' heq
    have hmem : (r, c) ∈ mode.positions w h := ⟨hr, hc⟩
    have hmem' : (r', c') ∈ mode.positions w h := ⟨hr', hc'⟩
    exact Prod.mk.inj (hinj hmem hmem' heq)
  · obtain ⟨⟨r, c⟩, ⟨hr, hc⟩, hpixel⟩ := hsurj (a := (y, x)) ⟨hy, hx⟩
    exact ⟨r, hr, c, hc, hpixel⟩

end Sys2Proof.Machine

/-! ## Stage 3, the Byte Packer (spec/42_byte_packer.md)

A byte is its lanes: `packedByte_getLsbD` says what each lane holds, and the weights, the padding and the pixel table
are read off from it. -/

namespace Sys2Proof.Machine

/-! ### Where a byte stands (rules R108, R109) -/

/-- Settles O14: `pack_length`, with the extents each mode gives the matrix by definition. -/
theorem packerYieldsOneBytePerStripAndColumn : Obligations.PackerYieldsOneBytePerStripAndColumn :=
  ⟨pack_length, fun _ => ⟨pack_length _, pack_length _, pack_length _, pack_length _⟩⟩

/-- Settles O15: the byte at its place is `packedByte`, whose lanes are `packedByte_getLsbD`; a place below the length is
that of a strip and a column. -/
theorem packedByteHoldsTheEightRowsOfItsStrip : Obligations.PackedByteHoldsTheEightRowsOfItsStrip := by
  intro m
  refine ⟨fun s hs c hc => ⟨packedByte m s c, pack_getElem? m hs hc, packedByte_getLsbD m s c⟩, fun i hi => ?_⟩
  rw [pack_length] at hi
  have hcols : 0 < m.cols := Nat.pos_of_mul_pos_left (Nat.zero_lt_of_lt hi)
  exact ⟨Nat.div_lt_of_lt_mul (hi.trans_eq (Nat.mul_comm _ _)), Nat.mod_lt i hcols⟩

/-! ### The byte as a number (rule R106) -/

/-- The low `n` bits of a number with their weights make the number modulo `2^n`. -/
theorem sum_testBit_mul_two_pow (x n : Nat) : ∑ b ∈ Finset.range n, (x.testBit b).toNat * 2 ^ b = x % 2 ^ n := by
  induction n with
  | zero => simp [Nat.mod_one]
  | succ n ih => rw [Finset.sum_range_succ, ih, Nat.mod_pow_succ, Nat.toNat_testBit, Nat.mul_comm (x / 2 ^ n % 2)]

theorem toNat_byte_eq_sum (v : Byte) : v.toNat = ∑ b ∈ Finset.range 8, (v.getLsbD b).toNat * 2 ^ b :=
  ((sum_testBit_mul_two_pow v.toNat 8).trans (Nat.mod_eq_of_lt v.isLt)).symm

theorem toNat_bit (v : Bit) : (decide (v = 1)).toNat = v.toNat := by
  revert v; decide

/-- The weighted sum over the lanes is the sum over the rows inside the extent. -/
theorem packedByte_toNat (m : Matrix) (s c : Nat) : (packedByte m s c).toNat =
    ∑ b ∈ Finset.range 8, if 8 * s + b < m.rows then (m.bit (8 * s + b) c).toNat * 2 ^ b else 0 := by
  rw [toNat_byte_eq_sum]
  refine Finset.sum_congr rfl fun b hb => ?_
  rw [packedByte_getLsbD m s c b (Finset.mem_range.1 hb)]
  split
  case isTrue hr => rw [decide_eq_true hr, Bool.true_and, toNat_bit]
  case isFalse hr => simp [hr]

/-- Settles O16: the byte at its place is the weighted sum of its rows; the source's example by evaluation. -/
theorem packedByteIsTheWeightedSumOfItsRows : Obligations.PackedByteIsTheWeightedSumOfItsRows := by
  refine ⟨fun m s c hs hc => ?_, by decide⟩
  rw [pack_getElem? m hs hc, Option.map_some, packedByte_toNat]

/-! ### The padding of the last strip (rule R107) -/

/-- The lanes of rows at or beyond the extent are 0, and so is every bit above the byte. -/
theorem packedByte_getLsbD_of_rows_le (m : Matrix) {s b : Nat} (c : Nat) (h : m.rows ≤ 8 * s + b) :
    (packedByte m s c).getLsbD b = false := by
  by_cases hb : b < 8
  · simp [packedByte_getLsbD m s c b hb, h.not_gt]
  · exact BitVec.getLsbD_of_ge _ _ (Nat.le_of_not_lt hb)

/-- Settles O17: below the last strip all eight rows are inside the extent; in the last one the lanes from the first
missing row on are 0, which bounds the byte. -/
theorem lastStripIsPaddedWithZeros : Obligations.LastStripIsPaddedWithZeros := by
  refine ⟨fun m hrows => ⟨fun s hs => by omega, by omega, by omega, fun c hc => ?_⟩,
    fun m m' ⟨hr, hc, hbit⟩ => pack_congr hr hc hbit⟩
  have hlast : (m.rows + 7) / 8 - 1 < stripCount m.rows := by rw [stripCount_eq]; omega
  have hzero : ∀ b, m.rows - 8 * ((m.rows + 7) / 8 - 1) ≤ b →
      (packedByte m ((m.rows + 7) / 8 - 1) c).getLsbD b = false :=
    fun b hb => packedByte_getLsbD_of_rows_le m c (by omega)
  exact ⟨_, pack_getElem? m hlast hc, Nat.lt_pow_two_of_testBit _ hzero, hzero⟩

/-! ### From an output bit back to the pixel (rule R113) -/

section
variable (lum : Nat → Nat → Byte) (w h : Nat) (mode : ScanMode) (thr : Int)

/-- An element of the transformed matrix is 1 exactly when the sample of its pixel exceeds the threshold. -/
theorem convert_transformed_bit_eq_one_iff (r c : Nat) :
    (convert lum w h mode thr).transformed.bit r c = 1 ↔
      thr < ((lum (mode.pixel w h r c).1 (mode.pixel w h r c).2).toNat : Int) := by
  change (transform mode (binarize lum h w thr)).bit r c = 1 ↔ _
  rw [transform_bit_eq, binarize_bit, sampleBit_eq_one_iff, binarize_cols, binarize_rows]

/-- The first part of rule R113, on the byte sequence of a conversion. -/
theorem exists_byte_of_pixel {s c b : Nat} (hb : b < 8) (hr : 8 * s + b < mode.rows w h) (hc : c < mode.cols w h) :
    ∃ byte, (convert lum w h mode thr).bytes[s * mode.cols w h + c]? = some byte ∧
      byte.getLsbD b =
        decide (thr < ((lum (mode.pixel w h (8 * s + b) c).1 (mode.pixel w h (8 * s + b) c).2).toNat : Int)) := by
  have hrows : (convert lum w h mode thr).transformed.rows = mode.rows w h := transform_rows_eq mode _
  have hcols : (convert lum w h mode thr).transformed.cols = mode.cols w h := transform_cols_eq mode _
  have hs : s < stripCount (convert lum w h mode thr).transformed.rows := by rw [stripCount_eq, hrows]; omega
  refine ⟨packedByte (convert lum w h mode thr).transformed s c, ?_, ?_⟩
  · rw [← hcols] at hc ⊢
    exact pack_getElem? _ hs hc
  · rw [packedByte_getLsbD _ _ _ _ hb, hrows]
    simp only [decide_eq_true hr, Bool.true_and, convert_transformed_bit_eq_one_iff]

end

/-- OUT shows the bytes of the conversion (rules R43, R125). -/
theorem outCell_complete {s : State} {i : Nat} {byte : Byte} (h : (requestedConversion s).bytes[i]? = some byte) :
    outCell (complete s) i = byte := by
  obtain ⟨hi, rfl⟩ := List.getElem?_eq_some_iff.1 h
  rw [outCell, read_out_complete s hi, Option.getD_some]

/-- Where no sample is raced, `Complete` reads what IMG holds (rule R41, log 6). -/
theorem requestedSample_of_not_raced {s : State} (h : s.raced = []) (y x : Nat) :
    requestedSample s y x = imgCell s (y * s.reqW.toNat + x) :=
  sample_of_not_raced (by simp [h])

/-- Settles O18: the byte of a conversion is `exists_byte_of_pixel`; `Complete` stores that byte, made from the samples
IMG holds. -/
theorem outputBitIsThePixelOfTheTable : Obligations.OutputBitIsThePixelOfTheTable := by
  refine ⟨fun lum w h mode thr s c b => exists_byte_of_pixel lum w h mode thr, fun s k c b hraced hb hr hc => ?_⟩
  obtain ⟨byte, hbyte, hbit⟩ := exists_byte_of_pixel (requestedSample s) _ _ s.reqMode s.reqThr.toInt hb hr hc
  rw [outCell_complete hbyte, hbit, requestedSample_of_not_raced hraced]

end Sys2Proof.Machine

/-! ## The conversion: issue, `Complete`, and what the host reads (spec/43_conversion.md)

The layer comes first: `issue` by its four cases as equations, what a transaction that is no CMD write leaves alone, and
what BIN, OUT and the result registers show after `complete` in any state. The four conversion commands are then one
theorem about their scan mode. -/

namespace Sys2Proof.Machine

/-! ### The issue of a command, one equation a case (rule R120) -/

section
variable {s : State}

theorem clearOutcome_of_not_busy (hb : s.status.busy = false) : clearOutcome s =
    { s with status := Status.zero, outLen := 0, pkRows := 0, pkCols := 0, resWidth := 0, resHeight := 0 } := by
  rw [clearOutcome, Status.cleared_of_not_busy hb]

theorem issue_of_badExtents (request : Option (ScanMode × Half)) (hb : s.status.busy = false) (hbad : s.badExtents) :
    issue request s = raiseError .invalidImage (clearOutcome s) := by
  simp [issue, hb, (imageInvalid_iff s).2 hbad]

theorem issue_none (hb : s.status.busy = false) (hgood : ¬ s.badExtents) :
    issue none s = raiseError .unsupportedMode (clearOutcome s) := by
  simp [issue, hb, mt (imageInvalid_iff s).1 hgood]

theorem issue_some (mode : ScanMode) (thr : Half) (hb : s.status.busy = false) (hgood : ¬ s.badExtents) :
    issue (some (mode, thr)) s = acceptRequest mode thr (clearOutcome s) := by
  simp [issue, hb, mt (imageInvalid_iff s).1 hgood]

/-- No CMD write ends in DONE unless it is dropped (rules R12, R120). -/
theorem issue_done_of_not_busy (request : Option (ScanMode × Half)) (hb : s.status.busy = false) :
    (issue request s).status.done = false := by
  rw [issue_status_of_not_busy request hb]
  split_ifs <;> rfl

end

theorem scanMode_number (i : Instr) : i.scanMode.number = i.modeNumber := by cases i <;> rfl

/-- Settles O19: the four cases are the four equations of `issue`; which of the last two applies is `decode_cases`. -/
theorem cmdWriteDoesWhatRule120Says : Obligations.CmdWriteDoesWhatRule120Says := by
  intro c s
  refine ⟨fun hb => ?_, fun hb hbad => ?_, fun hb hgood hmode => ?_, fun hb hgood hmode => ?_⟩
  · rw [issueWord_eq_requestOf, issue_of_busy _ hb]
    rfl
  · rw [issueWord_eq_requestOf, issue_of_badExtents _ hb hbad, clearOutcome_of_not_busy hb]
    rfl
  · rw [issueWord_of_illegal (decode_eq_illegal_iff.2 ⟨hmode, rfl⟩), issue_none hb hgood, clearOutcome_of_not_busy hb]
    rfl
  · obtain ⟨i, hi, hfield, hthr⟩ | ⟨-, hge⟩ := decode_cases c
    · refine ⟨i.scanMode, thresholdLatch i.threshold, ?_, ?_, ?_⟩
      · rw [issueWord_of_instr hi, exec_eq, issue_some _ _ hb hgood, clearOutcome_of_not_busy hb]
        rfl
      · have hnumber : (c.extractLsb' 0 15).toNat = i.modeNumber :=
          (congrArg BitVec.toNat hfield).trans (toNat_modeNumber i)
        rw [scanMode_number, ← hnumber]
        simp only [BitVec.extractLsb'_toNat, Nat.shiftRight_zero] at hmode ⊢
        omega
      · rw [← hthr, toInt_thresholdLatch (thresholdFits_operand c), effectiveThreshold_operand]
    · exact absurd hmode (Nat.not_lt.2 hge)

/-- Settles O28: every command is an issue, whose frame is `issue_frame` and `issue_latches`; a dropped one is
`dropCommand`. -/
theorem conversionCommandsLeaveTheRestUnchanged : Obligations.ConversionCommandsLeaveTheRestUnchanged := by
  intro i s u h
  rw [exec_eq] at h
  cases h
  have hlatches := issue_latches (some (i.scanMode, thresholdLatch i.threshold)) s
  have hdrop := issue_of_busy (some (i.scanMode, thresholdLatch i.threshold)) (s := s)
  have hframe := issue_frame (some (i.scanMode, thresholdLatch i.threshold)) s
  generalize issue (some (i.scanMode, thresholdLatch i.threshold)) s = u at hlatches hdrop hframe ⊢
  rw [hframe]
  refine ⟨rfl, rfl, rfl, fun _ => ⟨rfl, rfl, rfl⟩, rfl, rfl, rfl, rfl, rfl, rfl, rfl, rfl,
    fun hno => hlatches.resolve_right ?_, fun hb => ?_⟩
  · rintro ⟨hidle, hbusy⟩
    simp [hidle, hbusy] at hno
  · rw [hdrop hb]
    exact ⟨rfl, rfl, rfl, rfl, rfl, rfl⟩

/-! ### A transaction that is no CMD write leaves the result alone (rules R126, R128 to R134) -/

section
variable {op : HostOp} {s u : State}

/-- A transaction is a CMD write, or changes only the inputs, the race record and what is outside the block. -/
theorem hostOp_frame_or_issue (h : hostOp op s = .next u) :
    u = { s with
      width := u.width, height := u.height, img := u.img, raced := u.raced
      program := u.program, replies := u.replies, draws := u.draws } ∨
    ∃ c request, op = .regWrite 0x00 c ∧ u = issue request s := by
  obtain ⟨r, rfl⟩ | ⟨r, -, rfl⟩ | ⟨c, request, hop, -, hu⟩ | ⟨v, -, rfl⟩ | ⟨v, -, rfl⟩ | rfl | ⟨a, v, -, -, rfl⟩ |
    ⟨r, -, -, rfl⟩ := hostOp_cases h
  case inr.inr.inl => exact .inr ⟨c, request, hop, hu⟩
  all_goals exact .inl rfl

end

/-- Settles O54: `Complete` needs BUSY = 1, and a host's line that is no CMD write is `hostOp_frame_or_issue`. -/
theorem resultStaysReadableUntilTheNextCommand : Obligations.ResultStaysReadableUntilTheNextCommand := by
  intro s u hdone hstep hreset hcmd
  obtain ⟨hn, -⟩ | ⟨hn, -⟩ | ⟨-, rfl⟩ | ⟨-, op, rest, hp, hop⟩ := step_cases hstep
  · exact absurd hn hreset
  · cases hdone.symm.trans ((Status.phase_eq_busy_iff _).2 (nextTurn_codec hn))
  · exact ⟨rfl, rfl, rfl, rfl, rfl, rfl, rfl, rfl⟩
  · obtain hframe | ⟨c, request, rfl, -⟩ := hostOp_frame_or_issue hop
    · rw [hframe]
      exact ⟨rfl, rfl, rfl, rfl, rfl, rfl, rfl, rfl⟩
    · exact absurd hp (hcmd c rest)

/-! ### What `Complete` leaves to be read (rules R18 to R22, R42, R43, R96, R125) -/

section
variable (s : State)

theorem requestedConversion_rows :
    (requestedConversion s).transformed.rows = s.reqMode.rows s.reqW.toNat s.reqH.toNat :=
  transform_rows_eq s.reqMode (requestedConversion s).binary

theorem requestedConversion_cols :
    (requestedConversion s).transformed.cols = s.reqMode.cols s.reqW.toNat s.reqH.toNat :=
  transform_cols_eq s.reqMode (requestedConversion s).binary

/-- An element of the transformed matrix is the bit of its pixel (rule R113). -/
theorem requestedConversion_bit (r c : Nat) : (requestedConversion s).transformed.bit r c =
    (requestedConversion s).binary.bit (s.reqMode.pixel s.reqW.toNat s.reqH.toNat r c).1
      (s.reqMode.pixel s.reqW.toNat s.reqH.toNat r c).2 :=
  transform_bit_eq s.reqMode (requestedConversion s).binary r c

/-- An extent of the transformed matrix is one of the latched extents, which have 16 bits. -/
theorem requestedConversion_extents_lt :
    (requestedConversion s).transformed.rows < 2 ^ 16 ∧ (requestedConversion s).transformed.cols < 2 ^ 16 := by
  have hw := s.reqW.isLt
  have hh := s.reqH.isLt
  obtain ⟨hr, hc⟩ | ⟨hr, hc⟩ := requestedConversion_extents s <;> rw [hr, hc]
  · exact ⟨hh, hw⟩
  · exact ⟨hw, hh⟩

theorem complete_pkRows_toNat : (complete s).pkRows.toNat = (requestedConversion s).transformed.rows := by
  rw [complete_pkRows, BitVec.toNat_ofNat, Nat.mod_eq_of_lt (requestedConversion_extents_lt s).1]

theorem complete_pkCols_toNat : (complete s).pkCols.toNat = (requestedConversion s).transformed.cols := by
  rw [complete_pkCols, BitVec.toNat_ofNat, Nat.mod_eq_of_lt (requestedConversion_extents_lt s).2]

/-- OUT_LEN holds the byte count without truncation in every state: 8192 strips of 65535 columns fit in 32 bits. -/
theorem complete_outLen_toNat_eq : (complete s).outLen.toNat = (requestedConversion s).bytes.length := by
  obtain ⟨hrows, hcols⟩ := requestedConversion_extents_lt s
  have hlt : (requestedConversion s).bytes.length < 2 ^ 32 := by
    rw [requestedConversion_length, stripCount_eq]
    calc _ ≤ 8192 * 65535 := Nat.mul_le_mul (by omega) (by omega)
      _ < 2 ^ 32 := by decide
  rw [complete_outLen, BitVec.toNat_ofNat, Nat.mod_eq_of_lt hlt]

theorem complete_outLen_toNat_by_mode : (complete s).outLen.toNat =
    (s.reqMode.rows s.reqW.toNat s.reqH.toNat + 7) / 8 * s.reqMode.cols s.reqW.toNat s.reqH.toNat :=
  (complete_outLen_toNat_eq s).trans (requestedConversion_length_by_mode s)

/-- BIN shows the binary matrix of the conversion. -/
theorem binCell_complete {y x : Nat} (hy : y < s.reqH.toNat) (hx : x < s.reqW.toNat) :
    binCell (complete s) (sampleAddress s.reqW.toNat y x) = (requestedConversion s).binary.bit y x := by
  rw [binCell, read_bin_complete s hy hx, Option.getD_some]
  rfl

/-- Lane `b` of the byte of strip `k` and column `c` shows the bit that BIN holds of its pixel (rules R112, R113). -/
theorem outCell_complete_getLsbD {k c b : Nat} (hk : k < (s.reqMode.rows s.reqW.toNat s.reqH.toNat + 7) / 8)
    (hc : c < s.reqMode.cols s.reqW.toNat s.reqH.toNat) (hb : b < 8) :
    (outCell (complete s) (k * s.reqMode.cols s.reqW.toNat s.reqH.toNat + c)).getLsbD b =
      (decide (8 * k + b < s.reqMode.rows s.reqW.toNat s.reqH.toNat) &&
        decide (binCell (complete s)
          ((s.reqMode.pixel s.reqW.toNat s.reqH.toNat (8 * k + b) c).1 * s.reqW.toNat +
            (s.reqMode.pixel s.reqW.toNat s.reqH.toNat (8 * k + b) c).2) = 1)) := by
  have hbyte := pack_getElem? (requestedConversion s).transformed (s := k) (c := c)
    (by rwa [stripCount_eq, requestedConversion_rows]) (by rwa [requestedConversion_cols])
  rw [requestedConversion_cols] at hbyte
  rw [outCell_complete hbyte, packedByte_getLsbD _ _ _ _ hb, requestedConversion_rows]
  by_cases hr : 8 * k + b < s.reqMode.rows s.reqW.toNat s.reqH.toNat
  · obtain ⟨hy, hx⟩ := (s.reqMode.pixel_bijOn s.reqW.toNat s.reqH.toNat).mapsTo (x := (8 * k + b, c)) ⟨hr, hc⟩
    have hbin : binCell (complete s) (_ * s.reqW.toNat + _) = _ := binCell_complete s hy hx
    rw [hbin, requestedConversion_bit]
  · simp [hr]

theorem binCell_complete_other {a : Nat} (ha : s.reqW.toNat * s.reqH.toNat ≤ a) :
    binCell (complete s) a = binCell s a := by
  rw [binCell, read_bin_complete_other s ha]
  rfl

theorem outCell_complete_other {i : Nat} (hi : (complete s).outLen.toNat ≤ i) :
    outCell (complete s) i = outCell s i := by
  rw [outCell, read_out_complete_other s ((complete_outLen_toNat_eq s).symm.trans_le hi)]
  rfl

/-- The first OUT_LEN cells of OUT are the byte sequence. -/
theorem map_outCell_complete :
    (List.range (complete s).outLen.toNat).map (outCell (complete s)) = (requestedConversion s).bytes := by
  rw [complete_outLen_toNat_eq]
  refine List.ext_getElem (by simp) fun i _ hi => ?_
  rw [List.getElem_map, List.getElem_range, outCell_complete (List.getElem?_eq_getElem hi)]

/-- The matrix the host reads from BIN is the binary matrix of the conversion. -/
theorem binMatrix_complete_same : (complete s).binMatrix.Same (requestedConversion s).binary :=
  ⟨rfl, rfl, fun _ hy _ hx => binCell_complete s hy hx⟩

end

/-- Settles O33: the codec's step is `complete` after its turn is taken, which changes the schedule only. -/
theorem completeStoresTheConversionOfTheLatchedRequest :
    Obligations.CompleteStoresTheConversionOfTheLatchedRequest := by
  refine ⟨fun s => nextTurn_codec, fun s hb hs => nextTurn_of_nil hs hb,
    fun s a hraced => sample_of_not_raced (by simp [hraced]), fun s hn => ?_⟩
  refine ⟨complete (takeTurn s), step_of_codec hn, fun y hy x hx => read_bin_complete (takeTurn s) hy hx,
    fun i hi => ?_, complete_outLen_toNat_by_mode (takeTurn s),
    (complete_pkRows_toNat _).trans (requestedConversion_rows (takeTurn s)),
    (complete_pkCols_toNat _).trans (requestedConversion_cols (takeTurn s)), rfl⟩
  rw [complete_outLen_toNat_eq] at hi
  exact read_writeAll_outCells _ _ hi

/-! ### OUT agrees with BIN (rules R126, R169) -/

section
variable {s u : State}

/-- The conversion packs the transform of the matrix it stores in BIN, whatever samples it read. -/
theorem outAgreesWithBin_complete (s : State) : (complete s).outAgreesWithBin := by
  intro _
  obtain ⟨hrows, hcols, hbits⟩ := transform_same s.reqMode (binMatrix_complete_same s)
  refine ⟨s.reqMode, hrows.trans (complete_pkRows_toNat s).symm, hcols.trans (complete_pkCols_toNat s).symm, ?_⟩
  rw [map_outCell_complete, pack_congr hrows hcols hbits]
  rfl

theorem outAgreesWithBin_issue (request : Option (ScanMode × Half)) (h : s.outAgreesWithBin) :
    (issue request s).outAgreesWithBin := by
  cases hb : s.status.busy
  case true =>
    rw [issue_of_busy request hb]
    exact h
  case false =>
    intro hdone
    simp [issue_done_of_not_busy request hb] at hdone

theorem outAgreesWithBin_hostOp {op : HostOp} (h : s.outAgreesWithBin) (hop : hostOp op s = .next u) :
    u.outAgreesWithBin := by
  obtain hframe | ⟨c, request, -, rfl⟩ := hostOp_frame_or_issue hop
  · rw [hframe]
    exact h
  · exact outAgreesWithBin_issue request h

end

/-- Settles O57: `Complete` makes OUT and BIN agree, reset clears DONE, and the host's lines keep the agreement or clear
DONE. -/
theorem stepKeepsOutInAgreementWithBin : Obligations.StepKeepsOutInAgreementWithBin := by
  intro s u _ h hstep
  obtain ⟨-, rfl⟩ | ⟨-, rfl⟩ | ⟨-, rfl⟩ | ⟨-, op, rest, -, hop⟩ := step_cases hstep
  · exact nofun
  · exact outAgreesWithBin_complete _
  · exact h
  · exact outAgreesWithBin_hostOp (s := setProgram rest (takeTurn s)) h hop

/-! ### The four commands from the CMD write to DONE (rules R121 to R124) -/

/-- STATUS after the CMD write of a recognised mode with BUSY = 0 (rules R142, R144). -/
theorem status_word_of_request (mode : ScanMode) (thr : Half) {s : State} (hb : s.status.busy = false) :
    (issue (some (mode, thr)) s).status.word = if s.badExtents then 0x14 else 0x01 := by
  rw [issue_status_of_not_busy _ hb]
  by_cases hbad : s.badExtents
  · rw [if_pos ((imageInvalid_iff s).2 hbad), if_pos hbad]
    decide
  · rw [if_neg (mt (imageInvalid_iff s).1 hbad), if_neg hbad, if_pos (by rfl)]
    decide

/-- The state the codec starts from when no host line comes between accept and `Complete`. -/
def State.accepted (mode : ScanMode) (thr : Half) (s : State) : State :=
  takeTurn (acceptRequest mode thr (clearOutcome s))

theorem step_acceptRequest (mode : ScanMode) (thr : Half) {s : State} (hsched : s.schedule = []) :
    step (acceptRequest mode thr (clearOutcome s)) = .next (complete (s.accepted mode thr)) :=
  step_of_codec (nextTurn_of_nil hsched rfl)

theorem status_word_complete_accepted (mode : ScanMode) (thr : Half) {s : State} (hb : s.status.busy = false) :
    (complete (s.accepted mode thr)).status.word = 0x02 := by
  change s.status.cleared.accepted.completed.word = 0x02
  rw [Status.cleared_of_not_busy hb]
  decide

/-- BIN after accept and `Complete`: each pixel's sample against the threshold of the command. -/
theorem binCell_complete_accepted (mode : ScanMode) {t : Option Int} (hfits : thresholdFits t = true) (s : State)
    {y x : Nat} (hy : y < s.height.toNat) (hx : x < s.width.toNat) :
    binCell (complete (s.accepted mode (thresholdLatch t))) (y * s.width.toNat + x) =
      if effectiveThreshold t < ((imgCell s (y * s.width.toNat + x)).toNat : Int) then 1 else 0 := by
  refine (binCell_complete (s.accepted mode (thresholdLatch t)) hy hx).trans ?_
  change sampleBit (requestedSample (s.accepted mode (thresholdLatch t)) y x) (thresholdLatch t).toInt = _
  rw [requestedSample_of_not_raced rfl, toInt_thresholdLatch hfits]
  rfl

/-- The form of rules R121 to R124 holds of any row of the table, with the extents and the pixel map of its scan mode:
the step after accept is `complete`, in the state `State.accepted`. -/
theorem conversionRule_of_scanMode {row : Option Int → Instr} {m : BitVec 15} {mode : ScanMode}
    (hnumber : ∀ t, BitVec.ofNat 15 (row t).modeNumber = m) (hthr : ∀ t, (row t).threshold = t)
    (hmode : ∀ t, (row t).scanMode = mode) : ConversionRule row (m.setWidth 32) mode.rows mode.cols mode.pixel := by
  refine ⟨fun c => exists_decode_iff_mask c hnumber hthr, fun t s hfits hready hsched => ?_, fun t s hb => ?_⟩
  · obtain ⟨hb, hgood⟩ := (readyToConvert_iff s).1 hready
    have hexec : exec (row t) s = .next (acceptRequest mode (thresholdLatch t) (clearOutcome s)) := by
      rw [exec_eq, hthr, hmode, issue_some _ _ hb hgood]
    have hword := status_word_of_request mode (thresholdLatch t) hb
    rw [issue_some _ _ hb hgood, if_neg hgood] at hword
    exact ⟨_, complete (s.accepted mode (thresholdLatch t)), hexec, hword, step_acceptRequest _ _ hsched,
      status_word_complete_accepted _ _ hb, complete_outLen_toNat_by_mode _,
      (complete_pkRows_toNat _).trans (requestedConversion_rows _),
      (complete_pkCols_toNat _).trans (requestedConversion_cols _), rfl, rfl,
      fun y hy x hx => binCell_complete_accepted mode hfits s hy hx,
      fun k hk c hc b hlane => outCell_complete_getLsbD (s.accepted mode (thresholdLatch t)) hk hc hlane,
      rfl, rfl, rfl, rfl,
      fun p hp => binCell_complete_other (s.accepted mode (thresholdLatch t)) hp,
      fun p hp => outCell_complete_other (s.accepted mode (thresholdLatch t)) hp⟩
  · refine ⟨_, exec_eq (row t) s, ?_⟩
    rw [status_word_of_request _ _ hb]
    split_ifs with hbad <;> simp [hbad]

/-- Settles O29: RowMajor's row of the table. -/
theorem convRmConvertsInRowMajorOrder : Obligations.ConvRmConvertsInRowMajorOrder :=
  conversionRule_of_scanMode (m := 0) (mode := .rowMajor) (fun _ => rfl) (fun _ => rfl) fun _ => rfl

/-- Settles O30: ColumnMajor's row, with the extents exchanged. -/
theorem convCmConvertsInColumnMajorOrder : Obligations.ConvCmConvertsInColumnMajorOrder :=
  conversionRule_of_scanMode (m := 1) (mode := .columnMajor) (fun _ => rfl) (fun _ => rfl) fun _ => rfl

/-- Settles O31: RowSerpentine's row, whose pixel map reverses the odd rows. -/
theorem convRsConvertsInRowSerpentineOrder : Obligations.ConvRsConvertsInRowSerpentineOrder :=
  conversionRule_of_scanMode (m := 2) (mode := .rowSerpentine) (fun _ => rfl) (fun _ => rfl) fun _ => rfl

/-- Settles O32: ColumnSerpentine's row, with the extents exchanged and the odd rows reversed. -/
theorem convCsConvertsInColumnSerpentineOrder : Obligations.ConvCsConvertsInColumnSerpentineOrder :=
  conversionRule_of_scanMode (m := 3) (mode := .columnSerpentine) (fun _ => rfl) (fun _ => rfl) fun _ => rfl

/-! ### BUSY ends (rule R135, log 7) -/

section
variable {s u : State}

/-- While BUSY = 1 a transaction leaves the codec to move, and uses up its line or is a `WAIT` that goes on waiting. -/
theorem hostOp_keeps_busy {op : HostOp} (hb : s.status.busy = true) (h : hostOp op s = .next u) :
    u.status.busy = true ∧ u.cfg = s.cfg ∧ u.schedule = s.schedule ∧
      (u.program = s.program ∨ u.program = op :: s.program) := by
  obtain ⟨r, rfl⟩ | ⟨r, -, rfl⟩ | ⟨c, request, -, -, rfl⟩ | ⟨v, -, rfl⟩ | ⟨v, -, rfl⟩ | rfl | ⟨a, v, -, -, rfl⟩ |
    ⟨r, rfl, -, rfl⟩ := hostOp_cases h
  case inr.inr.inl =>
    rw [issue_of_busy request hb]
    exact ⟨hb, rfl, rfl, .inl rfl⟩
  case inr.inr.inr.inr.inr.inr.inr => exact ⟨hb, rfl, rfl, .inr rfl⟩
  all_goals exact ⟨hb, rfl, rfl, .inl rfl⟩

/-- One step with BUSY = 1 and no reset ahead: `Complete`, or a transaction that uses up one entry of the schedule. -/
theorem step_while_busy_inMap (hb : s.status.busy = true) (hreset : ∀ t ∈ s.schedule, t ≠ .reset)
    (hmap : ∀ op ∈ s.program, op.inMap s.cfg = true) :
    step s = .next (complete (takeTurn s)) ∨
    ∃ u, step s = .next u ∧ u.status.busy = true ∧ u.cfg = s.cfg ∧ (∃ t, s.schedule = t :: u.schedule) ∧
      u.program ⊆ s.program := by
  obtain hn | ⟨hn, turns, hs⟩ := nextTurn_while_busy hb hreset
  · exact .inl (step_of_codec hn)
  · obtain ⟨op, rest, hp⟩ := nextTurn_host hn
    obtain ⟨u, hop⟩ := hostOp_next_of_inMap (s := setProgram rest (takeTurn s)) (hmap op (by simp [hp]))
    obtain ⟨hbusy, hcfg, hsched, hprog⟩ := hostOp_keeps_busy (s := setProgram rest (takeTurn s)) hb hop
    have hturns : u.schedule = turns := hsched.trans (by simp [hs])
    refine .inr ⟨u, (step_of_host hn hp).trans hop, hbusy, hcfg, ⟨.host, by rw [hs, hturns]⟩, ?_⟩
    rw [hp]
    obtain hprog | hprog := hprog <;> rw [hprog]
    · exact List.subset_cons_self op rest
    · exact List.Subset.refl _

/-- Every step before `Complete` uses up an entry of the schedule, so `Complete` comes at the latest after the last. -/
theorem exists_run_to_done {s : State} (hb : s.status.busy = true) (hreset : ∀ t ∈ s.schedule, t ≠ .reset)
    (hmap : ∀ op ∈ s.program, op.inMap s.cfg = true) :
    ∃ k u, k ≤ s.schedule.length + 1 ∧ runSteps k s = .next u ∧ u.status.busy = false ∧ u.status.done = true := by
  obtain hstep | ⟨u, hstep, hbusy, hcfg, ⟨t, hsched⟩, hprog⟩ := step_while_busy_inMap hb hreset hmap
  · exact ⟨1, complete (takeTurn s), by omega, by simp [runSteps, hstep], rfl, rfl⟩
  · obtain ⟨k, v, hk, hrun, hdone⟩ := exists_run_to_done hbusy
      (fun t' ht' => hreset t' (by rw [hsched]; exact List.mem_cons_of_mem t ht'))
      (fun op hop => hcfg ▸ hmap op (hprog hop))
    exact ⟨k + 1, v, by rw [hsched, List.length_cons]; omega, by simpa [runSteps, hstep] using hrun, hdone⟩
termination_by s.schedule.length
decreasing_by simp [hsched]

end

/-- Settles O36: `exists_run_to_done`, which holds of a host that writes the image too. -/
theorem busyEndsInDoneUnlessResetComesFirst : Obligations.BusyEndsInDoneUnlessResetComesFirst :=
  fun _ hb hreset hmap => exists_run_to_done hb hreset hmap

/-! ### Reads (rules R128, R132, R133, R170) -/

/-- A read at a register's offset returns the register. -/
theorem hostRegRead_offset (r : Reg) (s : State) :
    hostRegRead r.offset s = .next (answer (.reg (readReg s r)) s) := by
  rw [hostRegRead, reg_ofOffset_offset]

/-- Settles O37: the nine offsets are those of the nine registers. -/
theorem registerReadReturnsTheRegister : Obligations.RegisterReadReturnsTheRegister := fun s =>
  ⟨hostRegRead_offset .cmd s, hostRegRead_offset .status s, hostRegRead_offset .width s, hostRegRead_offset .height s,
    hostRegRead_offset .outLen s, hostRegRead_offset .pkRows s, hostRegRead_offset .pkCols s,
    hostRegRead_offset .resWidth s, hostRegRead_offset .resHeight s⟩

/-- Settles O40: below the capacity BUSY alone decides between the cell's content and a draw. -/
theorem resultReadsAreExactOutsideBusy : Obligations.ResultReadsAreExactOutsideBusy := by
  intro a s ha
  refine ⟨fun hb => ?_, fun hb => ?_⟩
  · rw [hostOutRead, hostBinRead, if_pos ha, if_pos ha, if_neg (by simp [hb]), if_neg (by simp [hb])]
    exact ⟨rfl, rfl⟩
  · rw [hostOutRead, hostBinRead, if_pos ha, if_pos ha, if_pos hb, if_pos hb]
    exact ⟨rfl, rfl⟩

end Sys2Proof.Machine

/-! ## Errors and the dropped command (spec/60_exceptions.md)

The layer is STATUS after a CMD write written with BUSY = 0: one of three words, by the extents and MODE
(`issueWord_status_word`). A refused command is a `raiseError` of one of two errors (`issueWord_refused`), and a command
without an error is an `acceptRequest` (`issueWord_accepted`), from which the run to DONE is `exists_run_to_done`. -/

namespace Sys2Proof.Machine

/-! ### The outcome of a CMD write (rules R142, R143, R146, R160) -/

section
variable {c : Word} {s u : State}

/-- STATUS after a CMD write with BUSY = 0: the check of the extents comes first, then that of MODE. -/
theorem issueWord_status_word (c : Word) (hb : s.status.busy = false) : ∃ u, issueWord c s = .next u ∧
    u.status.word = if s.badExtents then 0x14 else if 4 ≤ (modeField c).toNat then 0x24 else 0x01 := by
  obtain ⟨i, hi, hmode, -⟩ | ⟨hillegal, hmode⟩ := decode_cases c
  · have hlt : ¬ 4 ≤ (modeField c).toNat := by
      rw [hmode, toNat_modeNumber]
      exact Nat.not_le.2 (modeNumber_lt i)
    rw [issueWord_of_instr hi, exec_eq, if_neg hlt]
    exact ⟨_, rfl, status_word_of_request _ _ hb⟩
  · rw [issueWord_of_illegal hillegal, if_pos hmode]
    exact ⟨_, rfl, status_word_of_illegal hb⟩

/-- A CMD write that shows ERR has raised one of the two errors the block knows (rules R141, R147). -/
theorem issueWord_refused (hb : s.status.busy = false) (h : issueWord c s = .next u) (herr : u.status.err = true) :
    ∃ e, (e = .invalidImage ∨ e = .unsupportedMode) ∧ u = raiseError e (clearOutcome s) := by
  rw [issueWord_eq_requestOf] at h
  cases h
  obtain ⟨hbusy, -⟩ | ⟨-, -, hu⟩ | ⟨-, -, -, hu⟩ | ⟨-, -, mode, thr, -, hu⟩ :=
    issue_cases (requestOf (c.extractLsb' 0 15) (wordThreshold c)) s
  · cases hb.symm.trans hbusy
  · exact ⟨.invalidImage, .inl rfl, hu⟩
  · exact ⟨.unsupportedMode, .inr rfl, hu⟩
  · rw [hu] at herr
    cases herr

/-- On a ready state every word of a recognised mode is accepted, whatever THR and TV are (rule R160). -/
theorem issueWord_accepted (hready : s.readyToConvert) (hmode : (modeField c).toNat < 4) :
    ∃ mode thr, issueWord c s = .next (acceptRequest mode thr (clearOutcome s)) := by
  obtain ⟨hb, hgood⟩ := (readyToConvert_iff s).1 hready
  obtain ⟨i, hi, -⟩ | ⟨-, hge⟩ := decode_cases c
  · exact ⟨_, _, by rw [issueWord_of_instr hi, exec_eq, issue_some _ _ hb hgood]⟩
  · exact absurd hmode (Nat.not_lt.2 hge)

/-- A CMD write that is not dropped leaves OVR clear (rule R120). -/
theorem issue_ovr_of_not_busy (request : Option (ScanMode × Half)) (hb : s.status.busy = false) :
    (issue request s).status.ovr = false := by
  rw [issue_status_of_not_busy request hb]
  split_ifs <;> rfl

/-- The check of rule R142 reads the capacity and the extents only. -/
theorem imageInvalid_congr (hcfg : s.cfg = u.cfg) (hw : s.width = u.width) (hh : s.height = u.height) :
    imageInvalid s = imageInvalid u := by
  simp only [imageInvalid, hcfg, hw, hh]

theorem step_of_reset (hn : nextTurn s = some .reset) : step s = .next (resetEvent (takeTurn s)) := by
  simp [step, hn, runTurn]

end

/-! ### The statements -/

/-- Settles O27: the command is accepted, and from BUSY = 1 the run ends in DONE (`exists_run_to_done`). -/
theorem commandWithoutAnErrorWillComplete : Obligations.CommandWithoutAnErrorWillComplete := by
  intro c s hb hw hh hcap hmode
  obtain ⟨mode, thr, hissue⟩ := issueWord_accepted (c := c) ⟨hb, hw, hh, hcap⟩ (Nat.lt_succ_of_le hmode)
  refine ⟨_, hissue, ?_, exists_run_to_done (s := acceptRequest mode thr (clearOutcome s)) rfl⟩
  rw [acceptRequest_status, clearOutcome_status, Status.cleared_of_not_busy hb]
  decide

/-- Settles O20: the command is the issue of its mode and its latched threshold, which is accepted. -/
theorem readyCommandIsAccepted : Obligations.ReadyCommandIsAccepted := by
  intro i s hwf hready
  obtain ⟨hb, hgood⟩ := (readyToConvert_iff s).1 hready
  refine ⟨thresholdLatch i.threshold, toInt_thresholdLatch hwf, ?_⟩
  rw [exec_eq, issue_some _ _ hb hgood, clearOutcome_of_not_busy hb]
  rfl

/-- Settles O21: of the three words STATUS can show, 0x14 is that of bad extents. -/
theorem invalidImageErrorExactlyForBadExtents : Obligations.InvalidImageErrorExactlyForBadExtents := by
  intro c s hb
  obtain ⟨u, hu, hword⟩ := issueWord_status_word c hb
  refine ⟨u, hu, ?_⟩
  rw [hword]
  split_ifs with hbad hmode
  · exact iff_of_true rfl hbad
  · exact iff_of_false (by decide) hbad
  · exact iff_of_false (by decide) hbad

/-- Settles O22: of the three words STATUS can show, 0x24 is that of an unknown mode with good extents. -/
theorem unsupportedModeErrorExactlyForUnknownModes : Obligations.UnsupportedModeErrorExactlyForUnknownModes := by
  intro c s hb
  obtain ⟨u, hu, hword⟩ := issueWord_status_word c hb
  refine ⟨u, hu, ?_⟩
  rw [hword]
  split_ifs with hbad hmode
  · exact iff_of_false (by decide) fun h => h.2 hbad
  · exact iff_of_true rfl ⟨hmode, hbad⟩
  · exact iff_of_false (by decide) fun h => hmode h.1

/-- Settles O23: the check of the extents comes before that of MODE. -/
theorem invalidImageErrorHasPriority : Obligations.InvalidImageErrorHasPriority := by
  intro c s hb hbad _
  obtain ⟨u, hu, hword⟩ := issueWord_status_word c hb
  exact ⟨u, hu, hword.trans (if_pos hbad)⟩

/-- Settles O24: error entry is `raiseError` after `clearOutcome`, two updates of STATUS and the result registers. -/
theorem errorEntryTouchesOnlyStatusAndResultRegisters :
    Obligations.ErrorEntryTouchesOnlyStatusAndResultRegisters := by
  intro c s u hb h herr
  obtain ⟨e, he, rfl⟩ := issueWord_refused hb h herr
  refine ⟨?_, by rw [clearOutcome_of_not_busy hb]; rfl⟩
  obtain rfl | rfl := he
  · exact .inl rfl
  · exact .inr rfl

/-- Settles O25: a drop is `dropCommand`, `Complete` keeps OVR, and an issue with BUSY = 0 and a reset clear it. -/
theorem commandDuringBusyIsDropped : Obligations.CommandDuringBusyIsDropped := by
  refine ⟨fun c s hb => ?_, fun s hlegal hb hovr hn => ?_, fun c s hb => ?_, fun s hn => ?_⟩
  · rw [issueWord_eq_requestOf, issue_of_busy _ hb]
    rfl
  · refine ⟨_, step_of_codec hn, ?_⟩
    change s.status.completed.word = 0x0A
    obtain ⟨ovr, hstatus⟩ := Status.eq_of_legal_of_busy hlegal hb
    rw [hstatus] at hovr ⊢
    cases hovr
    decide
  · exact ⟨_, issueWord_eq_requestOf c s, issue_ovr_of_not_busy _ hb⟩
  · exact ⟨_, step_of_reset hn, rfl⟩

/-- Settles O26: STATUS after an issue with BUSY = 0 depends on the request and on the check of the extents only. -/
theorem refusedCommandFailsAgainTheSameWay : Obligations.RefusedCommandFailsAgainTheSameWay := by
  intro c s u v hs h _ hv hcfg hw hh
  rw [issueWord_eq_requestOf] at h
  cases h
  rw [issue_cfg] at hcfg
  rw [issue_width] at hw
  rw [issue_height] at hh
  refine ⟨_, issueWord_eq_requestOf c v, ?_⟩
  rw [issue_status_of_not_busy _ hv, issue_status_of_not_busy _ hs, imageInvalid_congr hcfg hw hh]

/-- Settles O53: in phase ERR the codec has no turn, and a host's line that is no CMD write leaves STATUS alone
(`hostOp_status`). -/
theorem errorStaysUntilTheNextCommand : Obligations.ErrorStaysUntilTheNextCommand := by
  intro s u herr hstep hreset hcmd
  obtain ⟨hn, -⟩ | ⟨hn, -⟩ | ⟨-, rfl⟩ | ⟨-, op, rest, hp, hop⟩ := step_cases hstep
  · exact absurd hn hreset
  · cases herr.symm.trans ((Status.phase_eq_busy_iff _).2 (nextTurn_codec hn))
  · rfl
  · obtain hstatus | ⟨c, request, rfl, -⟩ := hostOp_status hop
    · exact hstatus
    · exact absurd hp (hcmd c rest)

end Sys2Proof.Machine

/-! ## Reset and hazards (spec/70_reset_and_hazards.md)

The layer comes first: what lists of `ImgWrite`s leave alone and which candidates they add to a cell (rule R169), when a
result read is free of hazards (rules R170, R171, R173), and which CMD writes start a conversion (rules R160, R172). -/

namespace Sys2Proof.Machine

/-! ### Image writes during BUSY (rule R169) -/

section
variable (ws : List (Nat × Byte)) (s : State)

theorem storeSamples_cons (a : Nat) (v : Byte) :
    storeSamples ((a, v) :: ws) s = storeSamples ws (storeSample a v s) := rfl

theorem storeSamples_append_singleton (a : Nat) (v : Byte) :
    storeSamples (ws ++ [(a, v)]) s = storeSample a v (storeSamples ws s) := by
  simp [storeSamples]

/-- Image writes change IMG and the race record, and nothing else. -/
theorem storeSamples_frame : storeSamples ws s =
    { s with img := (storeSamples ws s).img, raced := (storeSamples ws s).raced } := by
  induction ws generalizing s with
  | nil => rfl
  | cons p ws ih => exact ih (storeSample p.1 p.2 s)

/-- The length of the byte sequence does not depend on the samples (rule R109). -/
theorem requestedConversion_length_storeSamples :
    (requestedConversion (storeSamples ws s)).bytes.length = (requestedConversion s).bytes.length := by
  rw [requestedConversion_length_by_mode, requestedConversion_length_by_mode, storeSamples_frame]

/-- Nor do the extents of the transformed matrix (rule R96). -/
theorem requestedConversion_extents_storeSamples :
    (requestedConversion (storeSamples ws s)).transformed.rows = (requestedConversion s).transformed.rows ∧
    (requestedConversion (storeSamples ws s)).transformed.cols = (requestedConversion s).transformed.cols := by
  rw [requestedConversion_rows, requestedConversion_rows, requestedConversion_cols, requestedConversion_cols,
    storeSamples_frame]
  exact ⟨rfl, rfl⟩

variable {ws s} {a : Nat} {x : Byte}

/-- What a write replaces was the cell's content, so a candidate already. -/
theorem mem_replacedSamples_storeSample {b : Nat} {v : Byte} (h : x ∈ replacedSamples (storeSample b v s) a) :
    x ∈ sampleCandidates s a := by
  obtain ⟨⟨c, old⟩, hp, rfl⟩ := List.mem_map.1 h
  obtain ⟨hraced, hc⟩ := List.mem_filter.1 hp
  obtain rfl : c = a := by simpa using hc
  have hkept : (c, old) ∈ s.raced → recordedSample s c old ∈ sampleCandidates s c := fun hmem =>
    List.mem_cons_of_mem _ (List.mem_map_of_mem (List.mem_filter.2 ⟨hmem, hc⟩))
  rw [storeSample_raced, racedAfterWrite] at hraced
  split at hraced
  case isTrue =>
    obtain heq | hraced := List.mem_cons.1 hraced
    · cases heq
      exact List.mem_cons_self
    · exact hkept hraced
  case isFalse => exact hkept hraced

/-- A write adds no candidate but its value, and that to its own cell only. -/
theorem mem_sampleCandidates_storeSample {b : Nat} {v : Byte} (h : x ∈ sampleCandidates (storeSample b v s) a) :
    x ∈ sampleCandidates s a ∨ (a, x) = (b, v) := by
  obtain rfl | h := List.mem_cons.1 h
  · rw [imgCell_storeSample]
    split
    case isTrue hab => exact .inr (by rw [hab])
    case isFalse => exact .inl List.mem_cons_self
  · exact .inl (mem_replacedSamples_storeSample h)

theorem mem_sampleCandidates_storeSamples (h : x ∈ sampleCandidates (storeSamples ws s) a) :
    x ∈ sampleCandidates s a ∨ (a, x) ∈ ws := by
  induction ws generalizing s with
  | nil => exact .inl h
  | cons p ws ih =>
    obtain hcand | hws := ih h
    · exact (mem_sampleCandidates_storeSample hcand).imp_right fun heq => List.mem_cons.2 (.inl heq)
    · exact .inr (List.mem_cons_of_mem p hws)

/-- From a state without a race, the candidates are the value at accept and the values written since. -/
theorem mem_sampleCandidates_of_not_raced (hraced : s.raced = []) (h : x ∈ sampleCandidates (storeSamples ws s) a) :
    x = imgCell s a ∨ (a, x) ∈ ws := by
  have hnone : sampleCandidates s a = [imgCell s a] := by simp [sampleCandidates, replacedSamples, hraced]
  refine (mem_sampleCandidates_storeSamples h).imp_left fun hcand => ?_
  rwa [hnone, List.mem_singleton] at hcand

end

/-- Settles O43: the sample and the content of a cell are both candidates of it, and the registers depend on the latches
only (`storeSamples_frame`). -/
theorem racedSampleIsTheOldOrAWrittenValue : Obligations.RacedSampleIsTheOldOrAWrittenValue := by
  intro ws s _ hraced
  have hsample : ∀ a, sample (storeSamples ws s) a = imgCell s a ∨ (a, sample (storeSamples ws s) a) ∈ ws :=
    fun a => mem_sampleCandidates_of_not_raced hraced (sample_mem _ a)
  have hcell : ∀ a, imgCell (storeSamples ws s) a = imgCell s a ∨ (a, imgCell (storeSamples ws s) a) ∈ ws :=
    fun a => mem_sampleCandidates_of_not_raced hraced List.mem_cons_self
  obtain ⟨hrows, hcols⟩ := requestedConversion_extents_storeSamples ws s
  refine ⟨hsample, fun a hnot => ⟨(hsample a).resolve_right (hnot _), (hcell a).resolve_right (hnot _)⟩,
    fun a v => ?_, ?_, ?_, ?_, ?_, ?_, ?_, outAgreesWithBin_complete _⟩
  · rw [storeSamples_append_singleton, imgCell_storeSample, if_pos rfl]
  · rw [complete_status, storeSamples_frame, complete_status]
  · rw [complete_outLen, complete_outLen, requestedConversion_length_storeSamples]
  · rw [complete_pkRows, complete_pkRows, hrows]
  · rw [complete_pkCols, complete_pkCols, hcols]
  · rw [complete_resWidth, storeSamples_frame, complete_resWidth]
  · rw [complete_resHeight, storeSamples_frame, complete_resHeight]

/-! ### Reads of the result (rules R170, R171, R173) -/

section
variable {s : State}

theorem hazardFree_outRead_iff (i : Nat) :
    s.hazardFree (.outRead i) = true ↔ s.status.busy = false ∧ s.status.done = true ∧ i < s.outLen.toNat := by
  cases hb : s.status.busy <;> cases hd : s.status.done <;> simp [State.hazardFree, Hazard.arises, hb, hd]

theorem hazardFree_binRead_iff (a : Nat) : s.hazardFree (.binRead a) = true ↔
    s.status.busy = false ∧ s.status.done = true ∧ a < s.resWidth.toNat * s.resHeight.toNat := by
  cases hb : s.status.busy <;> cases hd : s.status.done <;> simp [State.hazardFree, Hazard.arises, hb, hd]

theorem outCell_of_read {i : Nat} {v : Byte} (h : s.out.read i = some v) : outCell s i = v := by
  rw [outCell, h, Option.getD_some]

theorem binCell_of_read {a : Nat} {v : Bit} (h : s.bin.read a = some v) : binCell s a = v := by
  rw [binCell, h, Option.getD_some]

end

/-- Settles O45: the read is one in DONE and inside the result, where the invariant says the cell has been written; with
BUSY = 0 the read is exact. -/
theorem hazardFreeReadReturnsAWrittenResult : Obligations.HazardFreeReadReturnsAWrittenResult := by
  intro a s hinv ha
  refine ⟨fun hfree => ?_, fun hfree => ?_⟩
  · obtain ⟨hb, hdone, hlt⟩ := (hazardFree_outRead_iff a).1 hfree
    obtain ⟨v, hv⟩ := Option.isSome_iff_exists.1 (hinv.doneOut hdone a hlt)
    have hread := ((resultReadsAreExactOutsideBusy a s ha).1 hb).1
    exact ⟨v, hv, by rw [hread, outCell_of_read hv]⟩
  · obtain ⟨hb, hdone, hlt⟩ := (hazardFree_binRead_iff a).1 hfree
    obtain ⟨v, hv⟩ := Option.isSome_iff_exists.1 (hinv.doneBin hdone a hlt)
    have hread := ((resultReadsAreExactOutsideBusy a s ha).1 hb).2
    exact ⟨v, hv, by rw [hread, binCell_of_read hv]⟩

/-! ### Conversions of an unwritten image (rules R160, R167, R172) -/

section
variable {c : Word} {s u : State}

theorem startsConversion_iff : s.startsConversion c = true ↔ s.readyToConvert ∧ (modeField c).toNat < 4 := by
  simp only [State.startsConversion, Bool.and_eq_true, decide_eq_true_eq]

/-- A CMD write that turns BUSY on starts a conversion. -/
theorem startsConversion_of_busy (hb : s.status.busy = false) (h : issueWord c s = .next u)
    (hbusy : u.status.busy = true) : s.startsConversion c = true := by
  obtain ⟨v, hv, hword⟩ := issueWord_status_word c hb
  cases hv.symm.trans h
  rw [← Status.word_getLsbD_zero, hword] at hbusy
  split_ifs at hbusy with hbad hmode
  · exact absurd hbusy (by decide)
  · exact absurd hbusy (by decide)
  · exact startsConversion_iff.2 ⟨(readyToConvert_iff s).2 ⟨hb, hbad⟩, Nat.lt_of_not_le hmode⟩

/-- The conversion a CMD write starts reads the image the host has set up (rule R120). -/
theorem issueWord_of_startsConversion (hstart : s.startsConversion c = true) :
    ∃ mode thr, issueWord c s = .next (acceptRequest mode thr (clearOutcome s)) := by
  obtain ⟨hready, hmode⟩ := startsConversion_iff.1 hstart
  exact issueWord_accepted hready hmode

theorem imageWritten_iff : s.imageWritten = true ↔
    ∀ a < s.width.toNat * s.height.toNat, ∃ v, s.img.read a = some v := by
  simp only [State.imageWritten, List.all_eq_true, List.mem_range, Option.isSome_iff_exists]

theorem imageWritten_eq_false_iff : s.imageWritten = false ↔
    ∃ a < s.width.toNat * s.height.toNat, s.img.read a = none := by
  simp [State.imageWritten]

/-- Only rules R168 and R172 name hazards of a CMD write. -/
theorem hazardFree_cmdWrite_iff : s.hazardFree (.regWrite 0x00 c) = true ↔
    s.status.busy = false ∧ (s.startsConversion c = true → s.imageWritten = true) := by
  cases hb : s.status.busy <;> cases hstart : s.startsConversion c <;>
    simp [State.hazardFree, Hazard.arises, hb, hstart]

/-- Right after accept every sample is the cell's content at accept. -/
theorem sample_acceptRequest_of_read (mode : ScanMode) (thr : Half) {a : Nat} {v : Byte}
    (h : s.img.read a = some v) : sample (acceptRequest mode thr (clearOutcome s)) a = v := by
  rw [sample_of_not_raced (by simp), imgCell, acceptRequest_img, clearOutcome_img, h, Option.getD_some]

end

/-- Settles O58: the commands that start a conversion are those that turn BUSY on, and the state they leave is
`acceptRequest`, which latches the extents and leaves IMG alone. -/
theorem unwrittenImageHazardIsThatOfAConversion : Obligations.UnwrittenImageHazardIsThatOfAConversion := by
  intro c s
  refine ⟨?_, fun hfree u h hbusy => ?_⟩
  · simp only [Hazard.arises, Bool.and_eq_true, Bool.not_eq_true']
    constructor
    · rintro ⟨hstart, hunwritten⟩
      obtain ⟨mode, thr, h⟩ := issueWord_of_startsConversion hstart
      have hb : s.status.busy = false := (startsConversion_iff.1 hstart).1.1
      exact ⟨hb, _, h, rfl, imageWritten_eq_false_iff.1 hunwritten⟩
    · rintro ⟨hb, u, h, hbusy, hunwritten⟩
      have hstart := startsConversion_of_busy hb h hbusy
      obtain ⟨mode, thr, h'⟩ := issueWord_of_startsConversion hstart
      cases h'.symm.trans h
      exact ⟨hstart, imageWritten_eq_false_iff.2 hunwritten⟩
  · obtain ⟨hb, hwritten⟩ := hazardFree_cmdWrite_iff.1 hfree
    have hstart := startsConversion_of_busy hb h hbusy
    obtain ⟨mode, thr, h'⟩ := issueWord_of_startsConversion hstart
    cases h'.symm.trans h
    intro a ha
    obtain ⟨v, hv⟩ := imageWritten_iff.1 (hwritten hstart) a ha
    exact ⟨v, hv, sample_acceptRequest_of_read mode thr hv⟩

/-! ### Reset (rule R165) -/

theorem nextTurn_of_reset {s : State} {rest : List Turn} (h : s.schedule = .reset :: rest) :
    nextTurn s = some .reset := by
  rw [nextTurn, h]

theorem readReg_resetEvent (r : Reg) (s : State) : readReg (resetEvent s) r = 0 := by
  have hreset : readReg (resetEvent s) r = readReg State.reset r := by cases r <;> rfl
  rw [hreset, registersReadZeroAfterReset.1 r]

/-- Settles O47: the step is the reset event, after which no cell is listed. -/
theorem resetEventClearsTheBlockInAnyState : Obligations.ResetEventClearsTheBlockInAnyState := by
  intro s rest h
  have hrest : (resetEvent (takeTurn s)).schedule = rest := by simp [h]
  exact ⟨resetEvent (takeTurn s), step_of_reset (nextTurn_of_reset h), fun r => readReg_resetEvent r _, rfl,
    fun _ => ⟨rfl, rfl, rfl⟩, rfl, rfl, rfl, rfl, hrest⟩

end Sys2Proof.Machine
